-- ==== Sys2Proof/Config.lean ====
section
/-! DEFINITION. Config: the fixed implementation values of the framer (spec/00_scope.md R9).
The model takes NO configuration parameter (R10): every value that is open at run time is a draw, and the
draws are the moves and offers that `Machine.State` holds as data (log entries 1 and 2). So this file has no
opaque constant: no instruction of this hardware leaves a result undefined. -/
namespace Sys2Proof.Config

/-- Width of a command word on CMD (R9). -/
abbrev cmdBits : Nat := 32

/-- Width of a wire message on MSG (R9). -/
abbrev wireBits : Nat := 24

/-- Width of a text item on TXT (R9). -/
abbrev txtBits : Nat := 17

/-- The largest legal channel, of the range [0,15] (R9, 40_codec.md R95). -/
abbrev maxChannel : BitVec 8 := 15#8

/-- The largest legal data field, of the range [0,127] (R9, 40_codec.md R95). -/
abbrev maxData : BitVec 8 := 127#8

/-- The one accepted-byte count that means success: exactly 3 bytes (R9, 41_channel.md R107). -/
abbrev acceptedBytes : BitVec 32 := 3#32

end Sys2Proof.Config
end

