-- ==== Sys2Proof/Word.lean ====
section
/-! DEFINITION. Word: the widths of what moves on the framer's ports and between its functions
(spec/00_scope.md R9, spec/20_memory.md R41 to R45). -/
namespace Sys2Proof

/-- One command word on CMD (R41). -/
abbrev CmdWord := BitVec 32

/-- One text item on TXT: the end bit and a 16-bit code unit (R42). -/
abbrev TextItem := BitVec 17

/-- One wire message on MSG, byte 0 in bits 23:16 (R44, R45). -/
abbrev WireMsg := BitVec 24

/-- One response status on RSP (R43). -/
abbrev RespCode := BitVec 3

/-- One accepted-byte count on ACC, two's-complement signed, compared only for equality with 3 (R11, R44). -/
abbrev AckCount := BitVec 32

/-- One UTF-16 code unit (R26, R46). -/
abbrev CodeUnit := BitVec 16

/-- One payload byte, or one 8-bit operand field (R9). -/
abbrev Byte := BitVec 8

/-- A status nibble, the high half of wire byte 0 (30_encoding.md R67). -/
abbrev Nibble := BitVec 4

/-- A logical channel that has passed its range check (R24). -/
abbrev Channel := BitVec 4

/-- A 7-bit wire data field (30_encoding.md R67). -/
abbrev Data7 := BitVec 7

end Sys2Proof
end

