-- ==== Sys2Proof/Syntax.lean ====
section
/-! DEFINITION. Syntax: everything that moves over the framer's CMD, TXT and MSG ports, one constructor per
row of spec/opcode_table.json, and the word of each port. -/
namespace Sys2Proof

/-- The status kinds, in the order the spec numbers them (30_encoding.md R62). -/
inductive StatusKind where
  | noteOn
  | noteOff
  | controlChange
deriving DecidableEq, Repr

/-- The rows of spec/opcode_table.json: seven command rows and the illegal class (format CMD32), the two
text items (format TXT17) and the three wire messages (format WIRE24, put by the framer, not a command). The
operand fields are as wide as the encoding gives them: a command's `ch`, `a` and `b` are unsigned bytes that
the range check judges at execution, not at decoding (30_encoding.md R63, R71). -/
inductive Instr where
  /-- `RAW 0, ch, a, b`: send one NoteOn message (41_channel.md R101). -/
  | rawNoteOn (ch a b : Byte)
  /-- `RAW 1, ch, a, b`: send one NoteOff message (R101). -/
  | rawNoteOff (ch a b : Byte)
  /-- `RAW 2, ch, a, b`: send one ControlChange message (R101). -/
  | rawControlChange (ch a b : Byte)
  /-- `NOTEON ch, a, b` (R102). -/
  | noteOn (ch a b : Byte)
  /-- `NOTEOFF ch, a, b` (R103). -/
  | noteOff (ch a b : Byte)
  /-- `CC ch, a, b` (R104). -/
  | cc (ch a b : Byte)
  /-- `FRAME ch`: send the text stream on TXT as one frame (42_transport.md R120). -/
  | frame (ch : Byte)
  /-- Any word that is no legal command (30_encoding.md R64). It keeps the word itself. -/
  | illegal (w : CmdWord)
  /-- `.unit u`: a code-unit item on TXT (R65). -/
  | unitItem (u : CodeUnit)
  /-- `.end`: the END item on TXT, with its 16 ignored bits (R65). -/
  | endItem (ignored : CodeUnit)
  /-- A NoteOn wire message on MSG (R67). -/
  | wireNoteOn (ch : Channel) (a b : Data7)
  /-- A NoteOff wire message on MSG (R67). -/
  | wireNoteOff (ch : Channel) (a b : Data7)
  /-- A ControlChange wire message on MSG (R67). -/
  | wireControlChange (ch : Channel) (a b : Data7)
deriving DecidableEq, Repr

/-- One word on one of the three ports that carry the rows of the opcode table. Command words, text items and
wire messages travel on separate ports, so one is never decoded as another (30_encoding.md R73). -/
inductive PortWord where
  | cmd (w : CmdWord)
  | txt (t : TextItem)
  | msg (m : WireMsg)
deriving DecidableEq, Repr

end Sys2Proof
end

