-- ==== Sys2Proof/Machine/Operands.lean ====
section
/-! DEFINITION. Operands: the fields of the encodings (spec/30_encoding.md R60, R65, R67, R71) and the
framer's combinational functions that build a message's fields (spec/40_codec.md R90 to R98). -/
namespace Sys2Proof.Machine

/-- `op`, bits 31:28 of a command word (R60). -/
def cmdOp (w : CmdWord) : BitVec 4 := w.extractLsb' 28 4

/-- `kind`, bits 27:26 of a command word (R60). -/
def cmdKind (w : CmdWord) : BitVec 2 := w.extractLsb' 26 2

/-- `rsv`, bits 25:24 of a command word (R60). -/
def cmdRsv (w : CmdWord) : BitVec 2 := w.extractLsb' 24 2

/-- `ch`, bits 23:16 of a command word, unsigned (R60, R71). -/
def cmdCh (w : CmdWord) : Byte := w.extractLsb' 16 8

/-- `a`, bits 15:8 of a command word, unsigned (R60, R71). -/
def cmdA (w : CmdWord) : Byte := w.extractLsb' 8 8

/-- `b`, bits 7:0 of a command word, unsigned (R60, R71). -/
def cmdB (w : CmdWord) : Byte := w.extractLsb' 0 8

/-- `end`, bit 16 of a text item (R65). -/
def txtEnd (t : TextItem) : Bool := t.getLsbD 16

/-- `unit`, bits 15:0 of a text item (R65). -/
def txtUnit (t : TextItem) : CodeUnit := t.extractLsb' 0 16

/-- The status nibble of a wire message, bits 23:20 (R67). -/
def wireNibble (m : WireMsg) : Nibble := m.extractLsb' 20 4

/-- The channel of a wire message, bits 19:16 (R67). -/
def wireChannel (m : WireMsg) : Channel := m.extractLsb' 16 4

/-- Data field A of a wire message, bits 14:8 (R67). -/
def wireA (m : WireMsg) : Data7 := m.extractLsb' 8 7

/-- Data field B of a wire message, bits 6:0 (R67). -/
def wireB (m : WireMsg) : Data7 := m.extractLsb' 0 7

/-- Both bits that R67 says are always 0 (bit 15 and bit 7) are 0. -/
def wireTopBitsClear (m : WireMsg) : Bool := !m.getLsbD 15 && !m.getLsbD 7

/-- The status kind a RAW command's `kind` field selects; 3 selects none (R62). -/
def kindOf (k : BitVec 2) : Option StatusKind :=
  if k = 0#2 then some .noteOn
  else if k = 1#2 then some .noteOff
  else if k = 2#2 then some .controlChange
  else none

/-- The status nibble of a status kind (R62). -/
def kindNibble : StatusKind → Nibble
  | .noteOn => 0x9#4
  | .noteOff => 0x8#4
  | .controlChange => 0xB#4

/-- `split(p)`: the codec split of a payload byte into number (bit 7) and value (bits 6 to 0)
(40_codec.md R90; the other rules that 90_conflicts.md C1 lists are rejected there). -/
def split (p : Byte) : BitVec 1 × Data7 := (p.extractLsb' 7 1, p.extractLsb' 0 7)

/-- `reassemble(number, value)`: the reference inverse of `split` (R91). The framer never computes it. -/
def reassemble (number : BitVec 1) (value : Data7) : Byte := number ++ value

/-- `utf16le(u)`: the two payload bytes of a code unit, the low byte first (R46, R92). -/
def utf16le (u : CodeUnit) : List Byte := [u.extractLsb' 0 8, u.extractLsb' 8 8]

/-- `textToBytes(text)`: the payload bytes of a whole text (R92). -/
def textToBytes (text : List CodeUnit) : List Byte := text.flatMap utf16le

/-- The reference `bytesToText` of R98: each pair [lo, hi] read back as `hi ++ lo`. A sequence of odd length
has no result (93_implementation_defined.md U1). The framer never computes it. -/
def bytesToText : List Byte → Option (List CodeUnit)
  | [] => some []
  | [_] => none
  | lo :: hi :: rest => (bytesToText rest).map ((hi ++ lo) :: ·)

/-- The two data fields of one payload byte: A is the number, zero-extended, and B the value (R72, R90). -/
def byteFields (p : Byte) : Data7 × Data7 := ((split p).1.setWidth 7, (split p).2)

/-- `dataFields(u)[0]`: the fields of the data message of the low byte (R97). -/
def lowFields (u : CodeUnit) : Data7 × Data7 := byteFields (u.extractLsb' 0 8)

/-- `dataFields(u)[1]`: the fields of the data message of the high byte (R97). -/
def highFields (u : CodeUnit) : Data7 × Data7 := byteFields (u.extractLsb' 8 8)

/-- `pack(nib, ch, a, b)`: byte 0 is the nibble and the channel, byte 1 is A and byte 2 is B, with byte 0 most
significant (R45, R94). -/
def pack (nib : Nibble) (ch : Channel) (a b : Byte) : WireMsg := nib ++ ch ++ a ++ b

/-- The start marker of a frame, `noteOn(channel, 0, 0)` (R14, 42_transport.md R120). -/
def startMarker (ch : Channel) : WireMsg := pack (kindNibble .noteOn) ch 0#8 0#8

/-- The end marker of a frame, `noteOff(channel, 0, 0)` (R14, R124). -/
def endMarker (ch : Channel) : WireMsg := pack (kindNibble .noteOff) ch 0#8 0#8

/-- The data message with fields A and B, `controlChange(channel, number, value)` (R14, R122). -/
def dataMsg (ch : Channel) (f : Data7 × Data7) : WireMsg :=
  pack (kindNibble .controlChange) ch (f.1.setWidth 8) (f.2.setWidth 8)

/-- The data message of the low byte of a code unit (R122). -/
def lowMsg (ch : Channel) (u : CodeUnit) : WireMsg := dataMsg ch (lowFields u)

/-- The data message of the high byte of a code unit (R123). -/
def highMsg (ch : Channel) (u : CodeUnit) : WireMsg := dataMsg ch (highFields u)

end Sys2Proof.Machine
end

