-- ==== Sys2Proof/WellFormed.lean ====
section
/-! DEFINITION. WellFormed: which terms of `Instr` stand for a word of their row. The operand fields of every
row but one are as wide as the encoding, so they admit every value; the range of `ch`, `a` and `b` is NOT part of
it (spec/30_encoding.md R63). Only `illegal w` carries a check: `w` must be illegal by R64. -/
namespace Sys2Proof

/-- R64's list of illegal encodings, read clause by clause and not through the decoder. -/
def illegalWord (w : CmdWord) : Bool :=
  let op := Machine.cmdOp w
  let kind := Machine.cmdKind w
  (op == 0x0#4 || decide (0x6#4 ≤ op))
  || Machine.cmdRsv w != 0#2
  || (op == 0x1#4 && kind == 3#2)
  || (op != 0x1#4 && kind != 0#2)
  || (op == 0x5#4 && (Machine.cmdA w != 0#8 || Machine.cmdB w != 0#8))

/-- The check of one instruction. -/
def Instr.wellFormed : Instr → Bool
  | .rawNoteOn _ _ _ => true
  | .rawNoteOff _ _ _ => true
  | .rawControlChange _ _ _ => true
  | .noteOn _ _ _ => true
  | .noteOff _ _ _ => true
  | .cc _ _ _ => true
  | .frame _ => true
  | .illegal w => illegalWord w
  | .unitItem _ => true
  | .endItem _ => true
  | .wireNoteOn _ _ _ => true
  | .wireNoteOff _ _ _ => true
  | .wireControlChange _ _ _ => true

/-- The instruction stands for a word of its row. -/
abbrev Instr.WellFormed (i : Instr) : Prop := i.wellFormed = true

end Sys2Proof
end

