-- ==== Sys2Proof/Decode.lean ====
section
/-! DEFINITION. Decode: the decoders of the three ports, total on every word (spec/30_encoding.md R63, R65,
R67), and after them the encoder (R74). -/
namespace Sys2Proof

/-- Why a 24-bit word is no wire message. No other port has a word that is refused: an illegal command word is
itself an instruction (R63), and every text item is legal (R65). -/
inductive Reject where
  /-- The status nibble is none of 0x8, 0x9 and 0xB (R68). -/
  | statusNibble
  /-- Bit 15 or bit 7 is 1, where R67 says always 0. -/
  | dataTopBit
deriving DecidableEq, Repr

/-- The RAW row of a status kind. -/
def rawOf (k : StatusKind) (ch a b : Byte) : Instr :=
  match k with
  | .noteOn => .rawNoteOn ch a b
  | .noteOff => .rawNoteOff ch a b
  | .controlChange => .rawControlChange ch a b

/-- `decodeCmd(w)`, total on all 2^32 words (R63). -/
def decodeCmd (w : CmdWord) : Instr :=
  let op := Machine.cmdOp w
  let kind := Machine.cmdKind w
  let ch := Machine.cmdCh w
  let a := Machine.cmdA w
  let b := Machine.cmdB w
  if Machine.cmdRsv w ≠ 0#2 then .illegal w
  else if op = 0x1#4 then
    match Machine.kindOf kind with
    | none => .illegal w
    | some k => rawOf k ch a b
  else if kind ≠ 0#2 then .illegal w
  else if op = 0x2#4 then .noteOn ch a b
  else if op = 0x3#4 then .noteOff ch a b
  else if op = 0x4#4 then .cc ch a b
  else if op = 0x5#4 then
    if a ≠ 0#8 ∨ b ≠ 0#8 then .illegal w else .frame ch
  else .illegal w

/-- `decodeTxt(t)`: every 17-bit value is a legal item, and the unit bits of END are ignored (R65). -/
def decodeTxt (t : TextItem) : Instr :=
  if Machine.txtEnd t then .endItem (Machine.txtUnit t) else .unitItem (Machine.txtUnit t)

/-- The wire message a 24-bit word is (R67, R68), or the reason why it is none. -/
def decodeWire (m : WireMsg) : Except Reject Instr :=
  if !Machine.wireTopBitsClear m then .error .dataTopBit
  else if Machine.wireNibble m = 0x9#4 then
    .ok (.wireNoteOn (Machine.wireChannel m) (Machine.wireA m) (Machine.wireB m))
  else if Machine.wireNibble m = 0x8#4 then
    .ok (.wireNoteOff (Machine.wireChannel m) (Machine.wireA m) (Machine.wireB m))
  else if Machine.wireNibble m = 0xB#4 then
    .ok (.wireControlChange (Machine.wireChannel m) (Machine.wireA m) (Machine.wireB m))
  else .error .statusNibble

/-- The row a port's word belongs to. The port decides the format (R73). -/
def decode : PortWord → Except Reject Instr
  | .cmd w => .ok (decodeCmd w)
  | .txt t => .ok (decodeTxt t)
  | .msg m => decodeWire m

/-- A CMD32 word from its fields (R60, R74). -/
def cmdWord (op : BitVec 4) (kind : BitVec 2) (ch a b : Byte) : CmdWord :=
  op ++ kind ++ 0b00#2 ++ ch ++ a ++ b

/-- A WIRE24 word from its fields, the two always-zero bits written out (R67). -/
def wireWord (nib : Nibble) (ch : Channel) (a b : Data7) : WireMsg :=
  nib ++ ch ++ 0#1 ++ a ++ 0#1 ++ b

/-- A TXT17 item from its fields (R65, R74). -/
def txtItem (endBit : BitVec 1) (u : CodeUnit) : TextItem := endBit ++ u

/-- The word of an instruction on its port, from the encoding tables of R60, R65, R67 and R74. -/
def encode : Instr → PortWord
  | .rawNoteOn ch a b => .cmd (cmdWord 0x1#4 0#2 ch a b)
  | .rawNoteOff ch a b => .cmd (cmdWord 0x1#4 1#2 ch a b)
  | .rawControlChange ch a b => .cmd (cmdWord 0x1#4 2#2 ch a b)
  | .noteOn ch a b => .cmd (cmdWord 0x2#4 0#2 ch a b)
  | .noteOff ch a b => .cmd (cmdWord 0x3#4 0#2 ch a b)
  | .cc ch a b => .cmd (cmdWord 0x4#4 0#2 ch a b)
  | .frame ch => .cmd (cmdWord 0x5#4 0#2 ch 0#8 0#8)
  | .illegal w => .cmd w
  | .unitItem u => .txt (txtItem 0#1 u)
  | .endItem x => .txt (txtItem 1#1 x)
  | .wireNoteOn ch a b => .msg (wireWord 0x9#4 ch a b)
  | .wireNoteOff ch a b => .msg (wireWord 0x8#4 ch a b)
  | .wireControlChange ch a b => .msg (wireWord 0xB#4 ch a b)

/-- The port word that an opcode-table word of `nbits` bits stands for. A row of more than 24 bits is CMD32.
TXT17 fills three whole bytes and so does WIRE24; bit 23 of every wire message is 1 (R68) and a text item has no
bit above bit 16, so a three-byte word below 2^17 is a text item and any other is a wire message (log entry 12). -/
def tablePort (nbits w : Nat) : PortWord :=
  if Config.wireBits < nbits then .cmd (BitVec.ofNat 32 w)
  else if w < 2 ^ Config.txtBits then .txt (BitVec.ofNat 17 w)
  else .msg (BitVec.ofNat 24 w)

/-- The instruction the decoder reads from an opcode-table word of `nbits` bits. -/
def decodeTableWord (nbits w : Nat) : Option Instr :=
  match decode (tablePort nbits w) with
  | .ok i => some i
  | .error _ => none

end Sys2Proof
end

