-- ==== Sys2Proof/Machine/Flags.lean ====
section
/-! DEFINITION. Flags: the response codes STATUS holds, the framer's only flag-like state
(spec/10_state.md R27, spec/30_encoding.md R70), and the two tests that decide them. -/
namespace Sys2Proof.Machine

/-- OK: every message of the command was accepted with count 3 (R70). -/
def statusOk : RespCode := 0#3

/-- RANGE_ERR: a channel or data field outside its range, rejected before any wire write (R70). -/
def statusRangeErr : RespCode := 1#3

/-- CONN_ERR: LINK_OPEN was 0 when a message was due (R70). -/
def statusConnErr : RespCode := 2#3

/-- TRANSPORT_ERR: an accepted count other than 3 (R70). -/
def statusTransportErr : RespCode := 3#3

/-- ILLEGAL_CMD: the command word is illegal (R70). -/
def statusIllegalCmd : RespCode := 4#3

/-- `rangeOk(ch, a, b)`, on the fields read as unsigned numbers (40_codec.md R95). -/
def rangeOk (ch a b : Byte) : Bool :=
  decide (ch ≤ Config.maxChannel) && decide (a ≤ Config.maxData) && decide (b ≤ Config.maxData)

/-- The accepted count means success: it is 3 and nothing else (41_channel.md R107). -/
def countOk (c : AckCount) : Bool := c == Config.acceptedBytes

end Sys2Proof.Machine
end

