-- ==== Sys2Proof/Machine/State.lean ====
section
/-! DEFINITION. State: every piece of state spec/10_state.md gives the framer, the offers that stand at its
ports (spec/20_memory.md), and the moves the other agents are still to make, all as plain data. -/
namespace Sys2Proof.Machine

/-- `FSM`, the framer's control state (10_state.md R22). The encodings 6 and 7 are never held. -/
inductive Fsm where
  /-- No command in progress. -/
  | idle
  /-- `MSG` waits to be put on the MSG port. -/
  | issue
  /-- The message in `MSG` has been put; its accepted count is awaited. -/
  | wait
  /-- Inside a frame, waiting for the next text item. -/
  | getu
  /-- A frame has failed; text items are thrown away up to END. -/
  | drain
  /-- `STATUS` waits to be put on RSP. -/
  | resp
deriving DecidableEq, Repr

/-- `ROLE`, which message of the current command `MSG` holds (R23). -/
inductive Role where
  /-- The one message of a RAW, NOTEON, NOTEOFF or CC command. -/
  | single
  /-- The start marker of a frame. -/
  | start
  /-- The data message of the low byte of the current code unit. -/
  | dlo
  /-- The data message of the high byte of the current code unit. -/
  | dhi
  /-- The end marker of a frame (the spec's END). -/
  | endMark
deriving DecidableEq, Repr

/-- An entry of the wire trace: a message put on MSG, or the marker of a reset (R31). -/
inductive WireEntry where
  | msg (m : WireMsg)
  | reset
deriving DecidableEq, Repr

/-- An entry of the response trace: a status put on RSP, or the marker of a reset (R31). -/
inductive RespEntry where
  | status (c : RespCode)
  | reset
deriving DecidableEq, Repr

/-- One move of one of the five agents of 00_scope.md R8. A list of them says in which order the agents move:
every draw of R10 (the offered words and items, the counts, the level of LINK_OPEN, the willingness of the
partners, the interleaving) is a choice of such a list. DESIGN CHOICE (log entry 1), safe. -/
inductive Move where
  /-- The framer takes the one step its state and the offers enable, or waits if they enable none. -/
  | framer
  /-- The reset source asserts `RESET`: the reset event (R29, 70_reset_and_hazards.md R160). -/
  | assertReset
  /-- The link manager drives `LINK_OPEN` to this level (R28). -/
  | driveLink (level : Bool)
  /-- The host offers one more command word on CMD (20_memory.md R41). -/
  | offerCmd (w : CmdWord)
  /-- The host offers one more text item on TXT (R42). -/
  | offerTxt (t : TextItem)
  /-- The transport offers one more accepted count on ACC (R44). -/
  | offerAcc (c : AckCount)
  /-- The host becomes willing, or unwilling, to take a response on RSP (R43). -/
  | hostReady (willing : Bool)
  /-- The transport becomes willing, or unwilling, to take a message on MSG (R44). -/
  | transportReady (willing : Bool)
deriving DecidableEq, Repr

/-- Why a step stops with a fault. The spec gives the framer no trap and no fault (60_exceptions.md R140), and no
state that a run from reset reaches has one. -/
inductive Fault where
  /-- Raised by the framer's step alone, in ISSUE with the link open and the transport willing, when `MSG` is no
  wire message. R25 says that `MSG` never holds such a word there, and R48 and R68 that none is ever put, so the
  spec gives the state no step. Safe: the model stops where the spec says nothing (log entry 7). -/
  | malformedMessage
deriving DecidableEq, Repr

/-- Why a step is refused. -/
inductive Refusal where
  /-- Raised by `exec` for an instruction that has no meaning yet. No arm of this model raises it. Safe. -/
  | notModelled (mnemonic : String)
  /-- Raised by `step` for a framer move before the first reset: "a model must treat the framer as not started"
  (R163, 93_implementation_defined.md U11). Safe. -/
  | notStarted
deriving DecidableEq, Repr

/-- The machine: the framer's registers (R22 to R27), its one level input (R28), the two traces (R31), what its
partners offer at the ports (R41 to R44), and the model's own two fields: whether a reset has happened (R163)
and the moves to come. -/
structure State where
  /-- `FSM` (R22). -/
  fsm : Fsm
  /-- `ROLE` (R23). -/
  role : Role
  /-- `CH[3:0]`, the channel of the frame in progress (R24). -/
  ch : Channel
  /-- `MSG[23:0]`, the message holding register (R25). -/
  msg : WireMsg
  /-- `UNIT[15:0]`, the code unit of the frame in progress (R26). -/
  unit : CodeUnit
  /-- `STATUS[2:0]`, the outcome of the command in progress (R27). -/
  status : RespCode
  /-- `LINK_OPEN`, the level the link manager drives (R28). The framer never writes it. -/
  linkOpen : Bool
  /-- `WIRE`, the wire trace, oldest first (R31). -/
  wire : List WireEntry
  /-- `RESP_TRACE`, the response trace, oldest first (R31). -/
  respTrace : List RespEntry
  /-- The command words the host offers on CMD and the framer has not taken, in order (R41). -/
  cmdOffer : List CmdWord
  /-- The TXT FIFO: the text items offered and not taken, in order (R42, R166). -/
  txtOffer : List TextItem
  /-- The accepted counts the transport offers on ACC and the framer has not taken, in order (R44). -/
  accOffer : List AckCount
  /-- The host is willing to take a response on RSP (R43). -/
  hostReady : Bool
  /-- The transport is willing to take a message on MSG (R44, R106). -/
  transportReady : Bool
  /-- A reset has happened: before the first one the framer has not started (R163). The model's own field (log entry
  10). -/
  started : Bool
  /-- The moves of the agents still to come, the next one first; when there is none, the framer moves. The
  model's own field (log entry 1). -/
  schedule : List Move
deriving DecidableEq, Repr

/-- The machine right after reset (R35, R160), with both traces empty and nothing offered, as the start state of
95_test_vectors.md has it. R35 and R162 give LINK_OPEN no reset value: the link manager decides. `false` here is a
DESIGN CHOICE (log entry 3), unsafe; the level may change by a move before any step. The empty traces are DEDUCED (log
entry 4), the unwilling partners a DESIGN CHOICE (log entry 14). -/
def State.reset : State where
  fsm := .idle
  role := .single
  ch := 0#4
  msg := 0#24
  unit := 0#16
  status := 0#3
  linkOpen := false
  wire := []
  respTrace := []
  cmdOffer := []
  txtOffer := []
  accOffer := []
  hostReady := false
  transportReady := false
  started := true
  schedule := []

end Sys2Proof.Machine
end

