-- ==== Sys2Proof/Machine/Ops.lean ====
section
/-! DEFINITION. Ops: the port signals, the named updates of the state, and the shared steps of
spec/41_channel.md, with the abort procedure of spec/60_exceptions.md R143 as the one way a command fails once a
message is due, and the response step as the one way back to IDLE. -/
namespace Sys2Proof.Machine

/-! ## Codes and signals -/

/-- The 3-bit code of `FSM` (R22); no port shows it. -/
def fsmCode : Fsm → BitVec 3
  | .idle => 0
  | .issue => 1
  | .wait => 2
  | .getu => 3
  | .drain => 4
  | .resp => 5

/-- The code of `ROLE` (R23). -/
def roleCode : Role → BitVec 3
  | .single => 0
  | .start => 1
  | .dlo => 2
  | .dhi => 3
  | .endMark => 4

/-- `CMD_READY` (R30). -/
def cmdReady (s : State) : Bool := s.fsm == .idle

/-- `TXT_READY` (R30). -/
def txtReady (s : State) : Bool := s.fsm == .getu || s.fsm == .drain

/-- `MSG_VALID` (R30). -/
def msgValid (s : State) : Bool := s.fsm == .issue && s.linkOpen

/-- `ACC_READY` (R30). -/
def accReady (s : State) : Bool := s.fsm == .wait

/-- `RSP_VALID` (R30). -/
def rspValid (s : State) : Bool := s.fsm == .resp

/-- `BUSY` (R30). -/
def busy (s : State) : Bool := s.fsm != .idle

/-- A message is in flight: it is on the wire and its count has not been taken (R32 a). -/
def inFlight (s : State) : Bool := s.fsm == .wait

/-- Drain mode: text items are taken and nothing is sent (R32 b). -/
def drainMode (s : State) : Bool := s.fsm == .drain

/-! ## Updates of the state -/

/-- `take CMD`: the word at the head of CMD leaves the host (R12, R41). -/
def takeCmd (s : State) : State := { s with cmdOffer := s.cmdOffer.tail }

/-- `take TXT`: the item at the head of the TXT FIFO is consumed (R12, R42). -/
def takeTxt (s : State) : State := { s with txtOffer := s.txtOffer.tail }

/-- `take ACC`: the count at the head of ACC is taken (R12, R44). -/
def takeAcc (s : State) : State := { s with accOffer := s.accOffer.tail }

/-- `put MSG(m)`: the message goes to the transport and to the end of `WIRE` (R12, R31). -/
def putMsg (m : WireMsg) (s : State) : State := { s with wire := s.wire ++ [.msg m] }

/-- `put RSP(c)`: the status goes to the host and to the end of `RESP_TRACE` (R12, R31). -/
def putRsp (c : RespCode) (s : State) : State := { s with respTrace := s.respTrace ++ [.status c] }

/-- `FSM <- f`. -/
def setFsm (f : Fsm) (s : State) : State := { s with fsm := f }

/-- `CH <- c`. -/
def setCh (c : Channel) (s : State) : State := { s with ch := c }

/-- `UNIT <- u`. -/
def setUnit (u : CodeUnit) (s : State) : State := { s with unit := u }

/-- `STATUS <- c; FSM <- f`: a command ends with outcome `c` and goes to RESP, or to DRAIN first. -/
def finish (c : RespCode) (f : Fsm) (s : State) : State := { s with status := c, fsm := f }

/-- `MSG <- m; ROLE <- r; FSM <- ISSUE`: a message falls due. -/
def load (r : Role) (m : WireMsg) (s : State) : State := { s with msg := m, role := r, fsm := .issue }

/-- The next move leaves the schedule. -/
def popMove (s : State) : State := { s with schedule := s.schedule.tail }

/-! ## Failing a command, and the return from it -/

/-- The roles in which a frame is aborted before its END item was taken (60_exceptions.md R143). -/
def abortsFrame : Role → Bool
  | .single => false
  | .start => true
  | .dlo => true
  | .dhi => true
  | .endMark => false

/-- `fail(e)`, the framer's whole trap entry (R143): it saves the status and sends nothing. -/
def fail (e : RespCode) (s : State) : State :=
  finish e (if abortsFrame s.role then .drain else .resp) s

/-- The response step, the only return to IDLE after a success or a failure (41_channel.md R110,
60_exceptions.md R146). -/
def respond (s : State) : State := setFsm .idle (putRsp s.status s)

/-! ## The steps every command shares -/

/-- The issue step (R106). -/
def issue (s : State) : State := setFsm .wait (putMsg s.msg s)

/-- `continue(role)` after an accepted message (R108). -/
def continueRole (r : Role) (s : State) : State :=
  match r with
  | .single => finish statusOk .resp s
  | .start => setFsm .getu s
  | .dlo => load .dhi (highMsg s.ch s.unit) s
  | .dhi => setFsm .getu s
  | .endMark => finish statusOk .resp s

/-- The accepted-count step, for the count `c` at the head of ACC (R107). -/
def takeCount (c : AckCount) (s : State) : State :=
  if countOk c then continueRole s.role (takeAcc s) else fail statusTransportErr (takeAcc s)

/-! ## The port transfers of the opcode table's rows -/

/-- A command word at CMD: its acceptance `f` runs when `CMD_READY` = 1, and otherwise the word stays with the
host, "neither lost nor taken" (R41, R100). DEDUCED for `exec` of an early word (log entry 11), safe. -/
def onCmd (f : State → State) (s : State) : State :=
  if cmdReady s then f (takeCmd s) else s

/-- `acceptSingle(nib, ch, a, b)` (R101). -/
def acceptSingle (nib : Nibble) (ch a b : Byte) (s : State) : State :=
  if rangeOk ch a b then load .single (pack nib (ch.setWidth 4) a b) s
  else finish statusRangeErr .resp s

/-- `acceptFrame(ch)` (42_transport.md R120). -/
def acceptFrame (ch : Byte) (s : State) : State :=
  if rangeOk ch 0#8 0#8 then load .start (startMarker (ch.setWidth 4)) (setCh (ch.setWidth 4) s)
  else finish statusRangeErr .drain s

/-- The acceptance of an illegal word (R64, R100). -/
def acceptIllegal (s : State) : State := finish statusIllegalCmd .resp s

/-- A text item at TXT: `inFrame` is what it does in GETU (R122) and `inDrain` in DRAIN (R126). In every other
state the item waits with the host (R42). -/
def onTxt (inFrame inDrain : State → State) (s : State) : State :=
  match s.fsm with
  | .getu => inFrame (takeTxt s)
  | .drain => inDrain (takeTxt s)
  | .idle => s
  | .issue => s
  | .wait => s
  | .resp => s

/-- The wire message `m` at MSG: it is put when the framer offers it (`MSG_VALID` = 1 and it is the word in `MSG`)
and the transport takes it (R106); otherwise nothing moves (R109). -/
def onMsg (m : WireMsg) (s : State) : State :=
  if msgValid s && s.transportReady && s.msg == m then issue s else s

/-! ## The moves of the other agents -/

/-- The reset event (70_reset_and_hazards.md R160). It leaves `LINK_OPEN` (R162) and the words the host offers on
CMD (R41) as they are, and clears the host's side of TXT and the transport's side of the MSG/ACC pair. DEDUCED for what is
kept on CMD (log entry 9). -/
def resetEvent (s : State) : State :=
  { s with
    fsm := .idle, role := .single, ch := 0#4, msg := 0#24, unit := 0#16, status := statusOk
    wire := s.wire ++ [.reset], respTrace := s.respTrace ++ [.reset]
    txtOffer := [], accOffer := [], transportReady := false, started := true }

/-- What a move of the host, the transport, the link manager or the reset source does. A framer move is not
one of theirs. -/
def applyMove (m : Move) (s : State) : State :=
  match m with
  | .framer => s
  | .assertReset => resetEvent s
  | .driveLink level => { s with linkOpen := level }
  | .offerCmd w => { s with cmdOffer := s.cmdOffer ++ [w] }
  | .offerTxt t => { s with txtOffer := s.txtOffer ++ [t] }
  | .offerAcc c => { s with accOffer := s.accOffer ++ [c] }
  | .hostReady willing => { s with hostReady := willing }
  | .transportReady willing => { s with transportReady := willing }

/-- Whose move is next: the schedule's first, and the framer's when the schedule is empty. -/
def nextMove (s : State) : Move :=
  match s.schedule with
  | [] => .framer
  | m :: _ => m

end Sys2Proof.Machine
end

