-- ==== Sys2Proof/Machine/Channel.lean ====
section
/-! DEFINITION. Channel: the meanings of the message commands and of an illegal word at acceptance
(spec/41_channel.md R100 to R104, spec/30_encoding.md R64). What follows acceptance (link check, issue, count,
response) is the framer's own and stands in `Machine.Sequencer`. -/
namespace Sys2Proof.Machine

/-- `RAW 0, ch, a, b` (R101). -/
def execRawNoteOn (ch a b : Byte) (s : State) : Host.Outcome State Fault Refusal :=
  .next (onCmd (acceptSingle (kindNibble .noteOn) ch a b) s)

/-- `RAW 1, ch, a, b` (R101). -/
def execRawNoteOff (ch a b : Byte) (s : State) : Host.Outcome State Fault Refusal :=
  .next (onCmd (acceptSingle (kindNibble .noteOff) ch a b) s)

/-- `RAW 2, ch, a, b` (R101). -/
def execRawControlChange (ch a b : Byte) (s : State) : Host.Outcome State Fault Refusal :=
  .next (onCmd (acceptSingle (kindNibble .controlChange) ch a b) s)

/-- `NOTEON ch, a, b` (R102). -/
def execNoteOn (ch a b : Byte) (s : State) : Host.Outcome State Fault Refusal :=
  .next (onCmd (acceptSingle 0x9#4 ch a b) s)

/-- `NOTEOFF ch, a, b` (R103). -/
def execNoteOff (ch a b : Byte) (s : State) : Host.Outcome State Fault Refusal :=
  .next (onCmd (acceptSingle 0x8#4 ch a b) s)

/-- `CC ch, a, b`: the fields go to the wire verbatim, without a split (R104). -/
def execCc (ch a b : Byte) (s : State) : Host.Outcome State Fault Refusal :=
  .next (onCmd (acceptSingle 0xB#4 ch a b) s)

/-- An illegal command word: every one of them acts the same (R64, R141). -/
def execIllegal (_w : CmdWord) (s : State) : Host.Outcome State Fault Refusal :=
  .next (onCmd acceptIllegal s)

end Sys2Proof.Machine
end

