-- ==== Sys2Proof/Machine/Transport.lean ====
section
/-! DEFINITION. Transport: the meanings of FRAME and of the two text items (spec/42_transport.md). -/
namespace Sys2Proof.Machine

/-- `FRAME ch` at acceptance (R120). -/
def execFrame (ch : Byte) (s : State) : Host.Outcome State Fault Refusal :=
  .next (onCmd (acceptFrame ch) s)

/-- `.unit u`: in GETU the data message of its low byte falls due (R122); in DRAIN it is discarded (R126). -/
def execUnitItem (u : CodeUnit) (s : State) : Host.Outcome State Fault Refusal :=
  .next (onTxt (fun t => load .dlo (lowMsg t.ch u) (setUnit u t)) (fun t => t) s)

/-- `.end`: in GETU the end marker falls due (R122, R124); in DRAIN the failed frame is over and its response is due
(R126). The item's low 16 bits are ignored (R65). -/
def execEndItem (_ignored : CodeUnit) (s : State) : Host.Outcome State Fault Refusal :=
  .next (onTxt (fun t => load .endMark (endMarker t.ch) t) (setFsm .resp) s)

end Sys2Proof.Machine
end

