-- ==== Sys2Proof/Machine/Wire.lean ====
section
/-! DEFINITION. Wire: the meanings of the three wire-message rows. The table marks them "output, not a command": such a
row is the MSG transfer that hands this message to the transport, the issue step (spec/41_channel.md R106,
spec/30_encoding.md R67; log entry 5). -/
namespace Sys2Proof.Machine

/-- A NoteOn message goes to the transport (R67, R106). -/
def execWireNoteOn (ch : Channel) (a b : Data7) (s : State) : Host.Outcome State Fault Refusal :=
  .next (onMsg (pack 0x9#4 ch (a.setWidth 8) (b.setWidth 8)) s)

/-- A NoteOff message goes to the transport (R67, R106). -/
def execWireNoteOff (ch : Channel) (a b : Data7) (s : State) : Host.Outcome State Fault Refusal :=
  .next (onMsg (pack 0x8#4 ch (a.setWidth 8) (b.setWidth 8)) s)

/-- A ControlChange message goes to the transport (R67, R106). -/
def execWireControlChange (ch : Channel) (a b : Data7) (s : State) : Host.Outcome State Fault Refusal :=
  .next (onMsg (pack 0xB#4 ch (a.setWidth 8) (b.setWidth 8)) s)

end Sys2Proof.Machine
end

