-- ==== Sys2Proof/Machine/Dispatch.lean ====
section
/-! DEFINITION. Dispatch: one arm per constructor of `Instr`, each one direct call of its meaning. -/
namespace Sys2Proof.Machine

def exec (i : Instr) (s : State) : Host.Outcome State Fault Refusal :=
  match i with
  | .rawNoteOn ch a b => Sys2Proof.Machine.execRawNoteOn ch a b s
  | .rawNoteOff ch a b => Sys2Proof.Machine.execRawNoteOff ch a b s
  | .rawControlChange ch a b => Sys2Proof.Machine.execRawControlChange ch a b s
  | .noteOn ch a b => Sys2Proof.Machine.execNoteOn ch a b s
  | .noteOff ch a b => Sys2Proof.Machine.execNoteOff ch a b s
  | .cc ch a b => Sys2Proof.Machine.execCc ch a b s
  | .frame ch => Sys2Proof.Machine.execFrame ch s
  | .illegal w => Sys2Proof.Machine.execIllegal w s
  | .unitItem u => Sys2Proof.Machine.execUnitItem u s
  | .endItem x => Sys2Proof.Machine.execEndItem x s
  | .wireNoteOn ch a b => Sys2Proof.Machine.execWireNoteOn ch a b s
  | .wireNoteOff ch a b => Sys2Proof.Machine.execWireNoteOff ch a b s
  | .wireControlChange ch a b => Sys2Proof.Machine.execWireControlChange ch a b s

end Sys2Proof.Machine
end

