-- ==== Sys2Proof/Machine/Sequencer.lean ====
section
/-! DEFINITION. Sequencer: the framer's own step (spec/10_state.md R21: the pair FSM, ROLE in the place of a program
counter), which reads the word at the port that is ready, and the placing of a word at that port. -/
namespace Sys2Proof.Machine

/-- The port word the framer's next transfer carries, when both parties are willing and it carries a row of the
opcode table: the offered command word in IDLE (R100), the next text item in GETU and DRAIN (R122, R126), the message
in `MSG` in ISSUE with the link open and the transport willing (R106). -/
def portWord (s : State) : Option PortWord :=
  match s.fsm with
  | .idle => s.cmdOffer.head?.map .cmd
  | .issue => if s.linkOpen && s.transportReady then some (.msg s.msg) else none
  | .wait => none
  | .getu => s.txtOffer.head?.map .txt
  | .drain => s.txtOffer.head?.map .txt
  | .resp => none

/-- The framer's steps that carry no row of the opcode table: the link check (R105), the accepted-count step (R107) and
the response step (R110). Where none of them is enabled either, the framer waits and nothing changes (R109, R167).
DESIGN CHOICE: a wait is a step to the same state (log entry 8), safe. -/
def ownStep (s : State) : State :=
  match s.fsm with
  | .idle => s
  | .issue => if s.linkOpen then s else fail statusConnErr s
  | .wait =>
    match s.accOffer with
    | [] => s
    | c :: _ => takeCount c s
  | .getu => s
  | .drain => s
  | .resp => if s.hostReady then respond s else s

/-- The framer's step. At most one is enabled in each state (R100 to R110, R122, R126). -/
def framerStep (s : State) : Host.Outcome State Fault Refusal :=
  match portWord s with
  | none => .next (ownStep s)
  | some p =>
    match decode p with
    | .ok i => exec i s
    | .error _ => .fault .malformedMessage

/-- `s` with `p` at the port where the framer's next step takes or puts it, and the framer to move next. A command
word goes to the head of CMD in IDLE, a text item to the head of TXT in a state that takes one (GETU unless the framer is
draining), and a wire message into `MSG` in ISSUE, with the link open and the transport willing. -/
def placeWord (p : PortWord) (s : State) : State :=
  let s := { s with started := true, schedule := if s.schedule.isEmpty then [] else .framer :: s.schedule }
  match p with
  | .cmd w => { s with fsm := .idle, cmdOffer := w :: s.cmdOffer }
  | .txt t => { s with fsm := if s.fsm = .drain then .drain else .getu, txtOffer := t :: s.txtOffer }
  | .msg m => { s with fsm := .issue, msg := m, linkOpen := true, transportReady := true }

end Sys2Proof.Machine
end

