-- ==== Sys2Proof/Machine/Step.lean ====
section
/-! DEFINITION. Step: one move of one agent (spec/00_scope.md R7), and the placing of an opcode-table word where the
next step reads it. -/
namespace Sys2Proof.Machine

/-- One step: the next move of the schedule is made. A framer move runs the framer's step, once the framer has
started (R163); any other move is its agent's. -/
def step (s : State) : Host.Outcome State Fault Refusal :=
  match nextMove s with
  | .framer => if s.started then framerStep (popMove s) else .refused .notStarted
  | m => .next (applyMove m (popMove s))

/-- `s` with the opcode-table word `w` of `nbits` bits placed where `step` reads its next word (log entry 6). -/
def State.withFetchWord (s : State) (nbits w : Nat) : State := placeWord (tablePort nbits w) s

end Sys2Proof.Machine
end

