-- ==== Sys2Proof/Machine/Assembler.lean ====
section
/-! DEFINITION. Assembler: the assembler of spec/30_encoding.md R74 and R75 as functions from the written operands to
the words. It refuses (`none`) an operand that does not fit its field, and none of its mnemonics writes an illegal
word; an illegal word can be written only by `.word`. -/
namespace Sys2Proof.Machine

/-- An operand fits an 8-bit field (R74). -/
def fitsByte (n : Nat) : Bool := decide (n < 256)

/-- A word of `op` with the operands `ch`, `a` and `b`, refused where one does not fit (R74). -/
def asmFields (op : BitVec 4) (kind : BitVec 2) (ch a b : Nat) : Option CmdWord :=
  if fitsByte ch && fitsByte a && fitsByte b then
    some (cmdWord op kind (BitVec.ofNat 8 ch) (BitVec.ofNat 8 a) (BitVec.ofNat 8 b))
  else none

/-- `RAW kind, ch, a, b`; `kind` must be 0, 1 or 2 (R74). -/
def asmRaw (kind ch a b : Nat) : Option CmdWord :=
  if kind ≤ 2 then asmFields 0x1#4 (BitVec.ofNat 2 kind) ch a b else none

/-- `NOTEON ch, a, b` (R74). -/
def asmNoteOn (ch a b : Nat) : Option CmdWord := asmFields 0x2#4 0#2 ch a b

/-- `NOTEOFF ch, a, b` (R74). -/
def asmNoteOff (ch a b : Nat) : Option CmdWord := asmFields 0x3#4 0#2 ch a b

/-- `CC ch, a, b` (R74). -/
def asmCc (ch a b : Nat) : Option CmdWord := asmFields 0x4#4 0#2 ch a b

/-- `FRAME ch` (R74). -/
def asmFrame (ch : Nat) : Option CmdWord := asmFields 0x5#4 0#2 ch 0 0

/-- `.unit u` (R74). -/
def asmUnit (u : Nat) : Option TextItem :=
  if u < 65536 then some (txtItem 0#1 (BitVec.ofNat 16 u)) else none

/-- `.end` (R74). -/
def asmEnd : TextItem := txtItem 1#1 0#16

/-- `.word n`: any 32-bit word, the illegal ones among them (R74). The number is written as any other operand is: R74
writes it as eight hexadecimal digits and leaves open whether its sentence on operands reaches it. DESIGN CHOICE (log
entry 19). -/
def asmWord (n : Nat) : Option CmdWord :=
  if n < 4294967296 then some (BitVec.ofNat 32 n) else none

/-- The text stream of a text: one `.unit` per code unit in order, then `.end` (R66, R75). -/
def textStream (text : List CodeUnit) : List TextItem := text.map (txtItem 0#1) ++ [asmEnd]

/-- The pseudo `SEND ch, "s"`, for the code units of `s`: the FRAME word and its text stream (R75). -/
def asmSend (ch : Nat) (text : List CodeUnit) : Option (CmdWord × List TextItem) :=
  (asmFrame ch).map (·, textStream text)

/-- The pseudo `START ch`: `NOTEON ch, 0, 0` (R75). -/
def asmStart (ch : Nat) : Option CmdWord := asmNoteOn ch 0 0

/-- The pseudo `STOP ch`: `NOTEOFF ch, 0, 0` (R75). -/
def asmStop (ch : Nat) : Option CmdWord := asmNoteOff ch 0 0

/-- The pseudo `DATA ch, p`: `CC ch, p[7], p[6:0]` (R75). -/
def asmData (ch : Nat) (p : Byte) : Option CmdWord :=
  asmCc ch (split p).1.toNat (split p).2.toNat

/-! ## The written form of a line (R74)

A line is a list of characters: a mnemonic, then its operands, separated by commas. R74 says nothing on spaces, so how they
are read is a DESIGN CHOICE (log entry 19). The string of `SEND` is given as its code units, because converting it is the
host's job (R75, 00_scope.md R5). -/

/-- The value of a hexadecimal digit. -/
def digitValue (c : Char) : Option Nat :=
  if '0' ≤ c ∧ c ≤ '9' then some (c.toNat - 48)
  else if 'a' ≤ c ∧ c ≤ 'f' then some (c.toNat - 87)
  else if 'A' ≤ c ∧ c ≤ 'F' then some (c.toNat - 55)
  else none

/-- The digits of a number in `base`, after the digits already read, whose value is `acc`. -/
def digits (base acc : Nat) : List Char → Option Nat
  | [] => some acc
  | c :: rest =>
    match digitValue c with
    | none => none
    | some d => if d < base then digits base (base * acc + d) rest else none

/-- An operand: a decimal number, or a hexadecimal one after `0x` (R74). A space is no digit, so an operand with a space
inside is refused (DESIGN CHOICE, log entry 19). -/
def operandValue : List Char → Option Nat
  | [] => none
  | ['0', 'x'] => none
  | '0' :: 'x' :: rest => digits 16 0 rest
  | cs => digits 10 0 cs

/-- A list of characters cut at every `sep`. -/
def cutAt (sep : Char) : List Char → List (List Char)
  | [] => [[]]
  | c :: rest =>
    if c = sep then [] :: cutAt sep rest
    else
      match cutAt sep rest with
      | [] => [[c]]
      | first :: more => (c :: first) :: more

/-- A list of characters without the spaces before and after it. A space inside stays. DESIGN CHOICE: R74 leaves
spaces open (log entry 19). -/
def trimSpaces (cs : List Char) : List Char :=
  ((cs.dropWhile (· = ' ')).reverse.dropWhile (· = ' ')).reverse

/-- The operands of a line, in the order shown; a line without operands has an empty text there. -/
def operandValues (cs : List Char) : Option (List Nat) :=
  if trimSpaces cs = [] then some [] else (cutAt ',' cs).mapM fun f => operandValue (trimSpaces f)

/-- The word or item of a line with this mnemonic and these operands: the table of R74 and, of R75, the three
pseudo-instructions whose expansion is one word. The number of `.word` may be decimal, or hexadecimal of any length
(DESIGN CHOICE, log entry 19). -/
def asmMnemonic (mnemonic : List Char) (operands : List Nat) : Option PortWord :=
  if mnemonic = ['R', 'A', 'W'] then
    match operands with | [kind, ch, a, b] => (asmRaw kind ch a b).map .cmd | _ => none
  else if mnemonic = ['N', 'O', 'T', 'E', 'O', 'N'] then
    match operands with | [ch, a, b] => (asmNoteOn ch a b).map .cmd | _ => none
  else if mnemonic = ['N', 'O', 'T', 'E', 'O', 'F', 'F'] then
    match operands with | [ch, a, b] => (asmNoteOff ch a b).map .cmd | _ => none
  else if mnemonic = ['C', 'C'] then
    match operands with | [ch, a, b] => (asmCc ch a b).map .cmd | _ => none
  else if mnemonic = ['F', 'R', 'A', 'M', 'E'] then
    match operands with | [ch] => (asmFrame ch).map .cmd | _ => none
  else if mnemonic = ['.', 'u', 'n', 'i', 't'] then
    match operands with | [u] => (asmUnit u).map .txt | _ => none
  else if mnemonic = ['.', 'e', 'n', 'd'] then
    match operands with | [] => some (.txt asmEnd) | _ => none
  else if mnemonic = ['.', 'w', 'o', 'r', 'd'] then
    match operands with | [w] => (asmWord w).map .cmd | _ => none
  else if mnemonic = ['S', 'T', 'A', 'R', 'T'] then
    match operands with | [ch] => (asmStart ch).map .cmd | _ => none
  else if mnemonic = ['S', 'T', 'O', 'P'] then
    match operands with | [ch] => (asmStop ch).map .cmd | _ => none
  else if mnemonic = ['D', 'A', 'T', 'A'] then
    match operands with
    | [ch, p] => if fitsByte p then (asmData ch (BitVec.ofNat 8 p)).map .cmd else none
    | _ => none
  else none

/-- The word or item of a written line: the mnemonic begins at the line's first character and ends at its first space (R74,
R75; DESIGN CHOICE, log entry 19). -/
def asmLine (line : List Char) : Option PortWord :=
  match operandValues (line.dropWhile (· ≠ ' ')) with
  | none => none
  | some operands => asmMnemonic (line.takeWhile (· ≠ ' ')) operands

end Sys2Proof.Machine
end

