-- ==== Sys2Proof/Machine/HostView.lean ====
section
/-! DEFINITION. HostView: what spec/ gives the host agent to do with the framer: how it fills an operand field
(R71, R165), what it makes of a response (R111, R128), and when a run is over (R172). The framer computes none
of it. -/
namespace Sys2Proof.Machine

/-- The operand field of an integer operand: the integer itself where it fits 8 bits, and 0xFF where it is negative or
too wide (R71, R165). -/
def hostOperand (n : Int) : Byte :=
  if 0 ≤ n ∧ n ≤ 255 then BitVec.ofNat 8 n.toNat else 0xFF#8

/-- The boolean result of `sendRaw`, `noteOn`, `noteOff` and `controlChange`: status = OK (R70, R111). -/
def hostSuccess (c : RespCode) : Bool := c == statusOk

/-- The result of `send(channel, text)`: the host's own copy of the text on OK, and the empty text otherwise (R128). -/
def hostSendResult (text : List CodeUnit) (c : RespCode) : List CodeUnit :=
  if hostSuccess c then text else []

/-- A run is over: the framer is in IDLE and the host offers no further command word (R172). A word that the host is still
to offer, by a move left in the schedule, does not count: R172 leaves open whether it does, so a run is over between two
commands of which the second is not offered yet. DESIGN CHOICE (log entry 21). -/
def runOver (s : State) : Bool := s.fsm == .idle && s.cmdOffer.isEmpty

/-- The observable result of a run, the pair of the two traces (R31, R172). -/
def runResult (s : State) : List WireEntry × List RespEntry := (s.wire, s.respTrace)

end Sys2Proof.Machine
end

