-- ==== Sys2Proof/Safety.lean ====
section
/-! DEFINITION. Safety: what the statements speak of beyond the machine itself: the invariant of the framer, the messages
of a frame and the messages a state still owes, and what an observer sees of a run. -/
namespace Sys2Proof.Machine

/-- The wire format of R67 and R68: a nibble of 0x8, 0x9 or 0xB, and bit 7 of bytes 1 and 2 clear. -/
def wireMsgOk (m : WireMsg) : Bool :=
  (wireNibble m == 0x8#4 || wireNibble m == 0x9#4 || wireNibble m == 0xB#4) && wireTopBitsClear m

/-- `MSG` is due or in flight. -/
def msgLive (s : State) : Bool := s.fsm == .issue || s.fsm == .wait

/-- The message that `ROLE`, `CH` and `UNIT` call for. A SINGLE message comes from the command's own operands, and no
register fixes it (R23, R120, R122, R123, R124). -/
def roleMessage (s : State) : Option WireMsg :=
  match s.role with
  | .single => none
  | .start => some (startMarker s.ch)
  | .dlo => some (lowMsg s.ch s.unit)
  | .dhi => some (highMsg s.ch s.unit)
  | .endMark => some (endMarker s.ch)

/-- The invariant of the framer. It holds at reset, and every step keeps it. -/
structure Inv (s : State) : Prop where
  /-- The codes 5 to 7 are never held (R142). -/
  status_code : s.status ≤ 4#3
  /-- In ISSUE and WAIT, `MSG` is a wire message (R25). -/
  msg_packed : msgLive s = true → wireMsgOk s.msg = true
  /-- In ISSUE and WAIT, `MSG` is the message its role calls for (R23, R130). -/
  msg_role : msgLive s = true → ∀ m, roleMessage s = some m → s.msg = m
  /-- In WAIT, the message in flight is the last entry of `WIRE` (R32 a). -/
  msg_in_flight : s.fsm = .wait → s.wire.getLast? = some (.msg s.msg)
  /-- In DRAIN, `STATUS` already holds the failure, and it is one a frame can have (R126, R143). -/
  drain_failed : s.fsm = .drain →
    s.status = statusRangeErr ∨ s.status = statusConnErr ∨ s.status = statusTransportErr
  /-- Every message in `WIRE` has the wire format (R68). -/
  wire_format : ∀ m, WireEntry.msg m ∈ s.wire → wireMsgOk m = true
  /-- The codes 5 to 7 are never put on RSP (R142). -/
  resp_codes : ∀ c, RespEntry.status c ∈ s.respTrace → c ≤ 4#3

/-- The code units of a text stream: those before its first END item (R66). -/
def streamUnits : List TextItem → List CodeUnit
  | [] => []
  | t :: rest => if txtEnd t then [] else txtUnit t :: streamUnits rest

/-- What stands in TXT after the first END item: what is left once one text stream is consumed (R66). -/
def afterStream : List TextItem → List TextItem
  | [] => []
  | t :: rest => if txtEnd t then rest else afterStream rest

/-- The two data messages of one code unit (R121, R122, R123). -/
def unitMessages (ch : Channel) (u : CodeUnit) : List WireMsg := [lowMsg ch u, highMsg ch u]

/-- The messages of a frame after its start marker: two per code unit, then the end marker. -/
def frameTail (ch : Channel) (text : List CodeUnit) : List WireMsg :=
  text.flatMap (unitMessages ch) ++ [endMarker ch]

/-- The messages of a frame that succeeds, in order (R51, R127). -/
def frameMessages (ch : Channel) (text : List CodeUnit) : List WireMsg :=
  startMarker ch :: frameTail ch text

/-- The messages the command in progress puts after the one in `MSG`, if every one of them is accepted and the text
stream is the one that stands in TXT. -/
def owedAfter (s : State) : List WireMsg :=
  match s.role with
  | .single => []
  | .start => frameTail s.ch (streamUnits s.txtOffer)
  | .dlo => highMsg s.ch s.unit :: frameTail s.ch (streamUnits s.txtOffer)
  | .dhi => frameTail s.ch (streamUnits s.txtOffer)
  | .endMark => []

/-- The messages the command in progress still puts, if every one of them is accepted. -/
def owed (s : State) : List WireMsg :=
  match s.fsm with
  | .idle => []
  | .issue => s.msg :: owedAfter s
  | .wait => owedAfter s
  | .getu => frameTail s.ch (streamUnits s.txtOffer)
  | .drain => []
  | .resp => []

/-- A frame whose END item has not been taken is in progress, or is being drained (R66, R126). -/
def owesStream (s : State) : Bool :=
  match s.fsm with
  | .idle => false
  | .issue => abortsFrame s.role
  | .wait => abortsFrame s.role
  | .getu => true
  | .drain => true
  | .resp => false

/-- A move that neither abandons the command in progress nor offers another one: no reset and no further command word. -/
def quietMove : Move → Bool
  | .framer => true
  | .assertReset => false
  | .driveLink _ => true
  | .offerCmd _ => false
  | .offerTxt _ => true
  | .offerAcc _ => true
  | .hostReady _ => true
  | .transportReady _ => true

/-- The text item a move offers, if it offers one. -/
def moveText : Move → List TextItem
  | .framer => []
  | .assertReset => []
  | .driveLink _ => []
  | .offerCmd _ => []
  | .offerTxt x => [x]
  | .offerAcc _ => []
  | .hostReady _ => []
  | .transportReady _ => []

/-- The accepted count a move offers, if it offers one. -/
def moveCount : Move → List AckCount
  | .framer => []
  | .assertReset => []
  | .driveLink _ => []
  | .offerCmd _ => []
  | .offerTxt _ => []
  | .offerAcc c => [c]
  | .hostReady _ => []
  | .transportReady _ => []

/-- The text items that the first `k` moves of the schedule offer: those that arrive during a run of `k` steps (R42). -/
def textWithin (k : Nat) (s : State) : List TextItem := (s.schedule.take k).flatMap moveText

/-- The counts that arrive during a run of `k` steps (R44). -/
def countsWithin (k : Nat) (s : State) : List AckCount := (s.schedule.take k).flatMap moveCount

/-- `s` with `items` offered on TXT behind what stands there. -/
def withText (items : List TextItem) (s : State) : State := { s with txtOffer := s.txtOffer ++ items }

/-- The messages of a wire trace, without its reset markers. -/
def wireMessages : List WireEntry → List WireMsg
  | [] => []
  | .msg m :: rest => m :: wireMessages rest
  | .reset :: rest => wireMessages rest

/-- The text the data messages of a frame carry, at the framer's side of the wire (R45, R67): each data message's fields
put together again by `reassemble` (R91). -/
def messageByte (m : WireMsg) : Byte := reassemble ((wireA m).setWidth 1) (wireB m)

/-- The written mnemonics of R74 and R75 that stand for one word or item, each with the number of its operands. -/
def mnemonicArities : List (List Char × Nat) :=
  [(['R', 'A', 'W'], 4), (['N', 'O', 'T', 'E', 'O', 'N'], 3), (['N', 'O', 'T', 'E', 'O', 'F', 'F'], 3), (['C', 'C'], 3),
   (['F', 'R', 'A', 'M', 'E'], 1), (['.', 'u', 'n', 'i', 't'], 1), (['.', 'e', 'n', 'd'], 0),
   (['.', 'w', 'o', 'r', 'd'], 1), (['S', 'T', 'A', 'R', 'T'], 1), (['S', 'T', 'O', 'P'], 1),
   (['D', 'A', 'T', 'A'], 2)]

/-- What an observer sees of an outcome: the two traces and the ready and valid signals, or that the machine
stopped (R20, R30, R31). -/
def observe (o : Host.Outcome State Fault Refusal) : Option ((List WireEntry × List RespEntry) × List Bool) :=
  match o with
  | .next s => some (runResult s,
      [cmdReady s, txtReady s, msgValid s, accReady s, rspValid s, busy s])
  | .fault _ => none
  | .refused _ => none

end Sys2Proof.Machine
end

