-- ==== Sys2Proof/Certificates/Slice0/Obligations.lean ====
section
/-! DEFINITION. Obligations: the statements for the provers. Results are written out as states and as bits, not through the
operations the meanings call. -/
open Sys2Proof Sys2Proof.Machine

/-! ## Encodings -/

/-- Words written out from the encodings of 30_encoding.md, with the instruction each stands for (the vectors V-DEC and
V-TXT of 95_test_vectors.md, and three wire messages). -/
def Obligations.WrittenWordsDecode : Prop :=
  decodeCmd 0b0001_00_00_00000101_00000001_01111111#32 = .rawNoteOn 5 1 0x7F ∧
  decodeCmd 0b0001_01_00_00000101_00000001_01111111#32 = .rawNoteOff 5 1 0x7F ∧
  decodeCmd 0b0001_10_00_00000101_00000001_01111111#32 = .rawControlChange 5 1 0x7F ∧
  decodeCmd 0b0010_00_00_00000011_00000000_00000000#32 = .noteOn 3 0 0 ∧
  decodeCmd 0b0011_00_00_00001111_01111111_01111111#32 = .noteOff 15 127 127 ∧
  decodeCmd 0b0100_00_00_00000011_00000000_01001000#32 = .cc 3 0 0x48 ∧
  decodeCmd 0b0101_00_00_00000011_00000000_00000000#32 = .frame 3 ∧
  decodeCmd 0b0001_11_00_00000000_00000000_00000000#32 = .illegal 0x1C000000 ∧
  decodeTxt 0b0_0000000001001000#17 = .unitItem 0x48 ∧
  decodeTxt 0b1_1010101111001101#17 = .endItem 0xABCD ∧
  decodeWire 0b1001_0011_0_0000000_0_0000000#24 = .ok (.wireNoteOn 3 0 0) ∧
  decodeWire 0b1000_1111_0_1111111_0_1111111#24 = .ok (.wireNoteOff 15 127 127) ∧
  decodeWire 0b1011_0011_0_0000001_0_1101001#24 = .ok (.wireControlChange 3 1 0x69)

/-- Decode and encode agree: every well-formed instruction is read back from its own word. All thirteen constructors,
every operand at every value its field admits. That `illegal` carries its word and `endItem` its ignored bits is the
model's choice (log entry 20). -/
def Obligations.EveryInstructionRoundTrips : Prop :=
  ∀ i : Instr, i.WellFormed → decode (encode i) = .ok i

/-- The other direction: a word that decodes is the encoding of what it decodes to, and decoding answers only
well-formed instructions. So no bit of any port word is dropped; for END items and illegal words this is the model's
choice, which keeps the ignored bits and the whole word in the term (log entry 20), where the spec's decodeTxt gives End
alone and its decodeCmd Illegal alone. -/
def Obligations.DecodedWordsEncodeBack : Prop :=
  ∀ (p : PortWord) (i : Instr), decode p = .ok i → encode i = p ∧ i.WellFormed

/-- R64: the illegal command words are exactly the listed ones, every other word is one of the named commands, and an
illegal word completes with ILLEGAL_CMD, puts no message, takes no text item and does not read LINK_OPEN: at its
acceptance, and in its whole run with a host that takes the response. -/
def Obligations.IllegalWordsAreTheListedOnes : Prop :=
  (∀ w : BitVec 32, decodeCmd w = .illegal w ↔
    (w.extractLsb 31 28 = 0 ∨ 6 ≤ (w.extractLsb 31 28).toNat) ∨
    w.extractLsb 25 24 ≠ 0 ∨
    (w.extractLsb 27 26 = 3 ∧ w.extractLsb 31 28 = 1) ∨
    (w.extractLsb 27 26 ≠ 0 ∧ w.extractLsb 31 28 ≠ 1) ∨
    ((w.extractLsb 15 8 ≠ 0 ∨ w.extractLsb 7 0 ≠ 0) ∧ w.extractLsb 31 28 = 5)) ∧
  (∀ w : BitVec 32, decodeCmd w ≠ .illegal w →
    ∃ ch a b, decodeCmd w = .rawNoteOn ch a b ∨ decodeCmd w = .rawNoteOff ch a b ∨
      decodeCmd w = .rawControlChange ch a b ∨ decodeCmd w = .noteOn ch a b ∨ decodeCmd w = .noteOff ch a b ∨
      decodeCmd w = .cc ch a b ∨ decodeCmd w = .frame ch) ∧
  (∀ (w : BitVec 32) (s : State), s.fsm = .idle →
    exec (.illegal w) s = .next { s with cmdOffer := s.cmdOffer.tail, status := 4, fsm := .resp }) ∧
  (∀ (w : BitVec 32) (words : List (BitVec 32)) (s : State), decodeCmd w = .illegal w →
    s.started = true → s.schedule = [] → s.fsm = .idle → s.hostReady = true → s.cmdOffer = w :: words →
    Host.Core.run Sys2Proof.core 2 s = .next
      { s with cmdOffer := words, status := 4, respTrace := s.respTrace ++ [.status 4], fsm := .idle })

/-- R65: bit 16 of a text item decides between END and a code unit, every 17-bit value is an item, and the low bits of an
END item have no effect. -/
def Obligations.TextItemsDecodeByTheEndBit : Prop :=
  (∀ t : BitVec 17, decodeTxt t =
    if t[16] then .endItem (t.extractLsb 15 0) else .unitItem (t.extractLsb 15 0)) ∧
  (∀ (x y : BitVec 16) (s : State), exec (.endItem x) s = exec (.endItem y) s)

/-- R67 and R68 on MSG: a 24-bit word decodes to a wire message exactly when its status nibble is 0x8, 0x9 or 0xB and bits
15 and 7 are 0. -/
def Obligations.WireWordsAreTheWireFormat : Prop :=
  ∀ m : BitVec 24, (∃ i, decodeWire m = .ok i) ↔
    (m.extractLsb 23 20 = 0x8 ∨ m.extractLsb 23 20 = 0x9 ∨ m.extractLsb 23 20 = 0xB) ∧
    m[15] = false ∧ m[7] = false

/-- R74: the assembler writes the tabled word of each mnemonic, refuses an operand that does not fit, a missing or
further operand and any mnemonic but these and those of R75 (`SEND`, whose words go to two ports, is `asmSend`), and
never writes an illegal word except by `.word`; its operands are decimal numbers and hexadecimal ones after `0x`; and a
line is a mnemonic with its operands. The model's choices of log entry 19 are: leading zeros, a small or a capital
letter as hexadecimal digit, the refusal of an operand that holds a space, the one space and the comma and space of the
lines here, and any number for `.word`. -/
def Obligations.AssemblerWritesTheTabledWords : Prop :=
  (∀ kind ch a b : Nat, asmRaw kind ch a b =
    if kind ≤ 2 ∧ ch ≤ 255 ∧ a ≤ 255 ∧ b ≤ 255 then
      some (0x1#4 ++ BitVec.ofNat 2 kind ++ 0#2 ++ BitVec.ofNat 8 ch ++ BitVec.ofNat 8 a ++ BitVec.ofNat 8 b)
    else none) ∧
  (∀ ch a b : Nat, asmNoteOn ch a b =
    if ch ≤ 255 ∧ a ≤ 255 ∧ b ≤ 255 then
      some (0x2#4 ++ 0x0#4 ++ BitVec.ofNat 8 ch ++ BitVec.ofNat 8 a ++ BitVec.ofNat 8 b) else none) ∧
  (∀ ch a b : Nat, asmNoteOff ch a b =
    if ch ≤ 255 ∧ a ≤ 255 ∧ b ≤ 255 then
      some (0x3#4 ++ 0x0#4 ++ BitVec.ofNat 8 ch ++ BitVec.ofNat 8 a ++ BitVec.ofNat 8 b) else none) ∧
  (∀ ch a b : Nat, asmCc ch a b =
    if ch ≤ 255 ∧ a ≤ 255 ∧ b ≤ 255 then
      some (0x4#4 ++ 0x0#4 ++ BitVec.ofNat 8 ch ++ BitVec.ofNat 8 a ++ BitVec.ofNat 8 b) else none) ∧
  (∀ ch : Nat, asmFrame ch =
    if ch ≤ 255 then some (0x5#4 ++ 0x0#4 ++ BitVec.ofNat 8 ch ++ 0x00#8 ++ 0x00#8) else none) ∧
  (∀ u : Nat, asmUnit u = if u ≤ 65535 then some (0#1 ++ BitVec.ofNat 16 u) else none) ∧
  asmEnd = 1#1 ++ 0x0000#16 ∧
  (∀ w : BitVec 32, asmWord w.toNat = some w) ∧
  (∀ (kind ch a b : Nat) (w : BitVec 32),
    asmRaw kind ch a b = some w ∨ asmNoteOn ch a b = some w ∨ asmNoteOff ch a b = some w ∨
    asmCc ch a b = some w ∨ asmFrame ch = some w → decodeCmd w ≠ .illegal w) ∧
  (∀ kind ch a b : Nat,
    asmMnemonic ['R', 'A', 'W'] [kind, ch, a, b] = (asmRaw kind ch a b).map .cmd ∧
    asmMnemonic ['N', 'O', 'T', 'E', 'O', 'N'] [ch, a, b] = (asmNoteOn ch a b).map .cmd ∧
    asmMnemonic ['N', 'O', 'T', 'E', 'O', 'F', 'F'] [ch, a, b] = (asmNoteOff ch a b).map .cmd ∧
    asmMnemonic ['C', 'C'] [ch, a, b] = (asmCc ch a b).map .cmd ∧
    asmMnemonic ['F', 'R', 'A', 'M', 'E'] [ch] = (asmFrame ch).map .cmd) ∧
  (∀ n : Nat,
    asmMnemonic ['.', 'u', 'n', 'i', 't'] [n] = (asmUnit n).map .txt ∧
    asmMnemonic ['.', 'w', 'o', 'r', 'd'] [n] = if n ≤ 0xFFFFFFFF then some (.cmd (BitVec.ofNat 32 n)) else none) ∧
  asmMnemonic ['.', 'e', 'n', 'd'] [] = some (.txt asmEnd) ∧
  (∀ m ∈ mnemonicArities, ∀ operands : List Nat, operands.length ≠ m.2 → asmMnemonic m.1 operands = none) ∧
  (∀ (m : List Char) (operands : List Nat), m ∉ mnemonicArities.map Prod.fst → asmMnemonic m operands = none) ∧
  (∀ (m : List Char) (operands : List Nat) (w : BitVec 32), m ≠ ['.', 'w', 'o', 'r', 'd'] →
    asmMnemonic m operands = some (.cmd w) → decodeCmd w ≠ .illegal w) ∧
  (∀ ds : List Nat, ds ≠ [] → (∀ d ∈ ds, d < 10) →
    operandValue (ds.map Nat.digitChar) = some (ds.foldl (fun n d => 10 * n + d) 0)) ∧
  (∀ ds : List Nat, ds ≠ [] → (∀ d ∈ ds, d < 16) →
    operandValue ('0' :: 'x' :: ds.map Nat.digitChar) = some (ds.foldl (fun n d => 16 * n + d) 0) ∧
    operandValue ('0' :: 'x' :: ds.map fun d => (Nat.digitChar d).toUpper) =
      some (ds.foldl (fun n d => 16 * n + d) 0)) ∧
  (∀ cs : List Char, cs = [] ∨ cs = ['0', 'x'] ∨ ' ' ∈ cs → operandValue cs = none) ∧
  (∀ (m : List Char) (operands : List (List Char)), ' ' ∉ m → operands ≠ [] →
    (∀ f ∈ operands, f ≠ [] ∧ ' ' ∉ f ∧ ',' ∉ f) →
    asmLine m = asmMnemonic m [] ∧
    asmLine (m ++ ' ' :: [',', ' '].intercalate operands) = (operands.mapM operandValue).bind (asmMnemonic m))

/-- R75: the expansions of the four pseudo-instructions, and the written mnemonics of the three that are one word. -/
def Obligations.PseudoInstructionsExpand : Prop :=
  (∀ (ch : Nat) (text : List (BitVec 16)), asmSend ch text =
    (asmFrame ch).map fun w => (w, text.map (fun u => (0#1 ++ u : BitVec 17)) ++ [0x10000#17])) ∧
  (∀ ch : Nat, asmStart ch = asmNoteOn ch 0 0 ∧ asmStop ch = asmNoteOff ch 0 0) ∧
  (∀ (ch : Nat) (p : BitVec 8), asmData ch p = asmCc ch (p.toNat / 128) (p.toNat % 128)) ∧
  (∀ ch : Nat,
    asmMnemonic ['S', 'T', 'A', 'R', 'T'] [ch] = (asmStart ch).map .cmd ∧
    asmMnemonic ['S', 'T', 'O', 'P'] [ch] = (asmStop ch).map .cmd) ∧
  (∀ ch p : Nat, asmMnemonic ['D', 'A', 'T', 'A'] [ch, p] =
    if p ≤ 255 then (asmData ch (BitVec.ofNat 8 p)).map .cmd else none)

/-! ## The combinational functions -/

/-- R90: `split` by the shift and the mask, total on all bytes, and where its two fields go in a data message. -/
def Obligations.SplitTakesBitSeven : Prop :=
  (∀ p : BitVec 8,
    (split p).1.setWidth 8 = (p >>> 7) &&& 0x1 ∧ (split p).2.setWidth 8 = p &&& 0x7F ∧
    byteFields p = ((split p).1.setWidth 7, (split p).2) ∧
    ((byteFields p).1 = 0 ∨ (byteFields p).1 = 1)) ∧
  split 0x00 = (0, 0x00) ∧ split 0x7F = (0, 0x7F) ∧ split 0x80 = (1, 0x00) ∧ split 0xFF = (1, 0x7F) ∧
  split 0xE9 = (1, 0x69)

/-- R91: `reassemble` by the shift and the OR, and the round-trip law for every byte. -/
def Obligations.ReassembleUndoesSplit : Prop :=
  (∀ (n : BitVec 1) (v : BitVec 7),
    reassemble n v = (n.setWidth 8 <<< 7) ||| (v.setWidth 8 &&& 0x7F)) ∧
  (∀ p : BitVec 8, reassemble (split p).1 (split p).2 = p) ∧
  reassemble 1 0x69 = 0xE9

/-- R92: the low byte of a code unit first, a text's bytes in code-unit order, two per unit, no byte-order mark. -/
def Obligations.TextBytesAreLittleEndian : Prop :=
  (∀ u : BitVec 16, utf16le u = [u.extractLsb 7 0, u.extractLsb 15 8]) ∧
  textToBytes [] = [] ∧
  (∀ (u : BitVec 16) (text : List (BitVec 16)),
    textToBytes (u :: text) = u.extractLsb 7 0 :: u.extractLsb 15 8 :: textToBytes text) ∧
  (∀ text : List (BitVec 16), (textToBytes text).length = 2 * text.length) ∧
  utf16le 0x0000 = [0x00, 0x00] ∧ utf16le 0xFFFF = [0xFF, 0xFF] ∧ utf16le 0xFEFF = [0xFF, 0xFE] ∧
  textToBytes [0x0048, 0x0069] = [0x48, 0x00, 0x69, 0x00]

/-- R98: `bytesToText` reads each byte pair back as the high byte before the low byte, and reading a text's bytes back
gives the text, for every sequence of code units, surrogates included. -/
def Obligations.TextRoundTripsThroughBytes : Prop :=
  bytesToText [] = some [] ∧
  (∀ (lo hi : BitVec 8) (rest : List (BitVec 8)),
    bytesToText (lo :: hi :: rest) = (bytesToText rest).map fun text => (hi ++ lo : BitVec 16) :: text) ∧
  (∀ text : List (BitVec 16), bytesToText (textToBytes text) = some text)

/-- R94: `pack` by the shift and the OR of its definition, with the corner cases and the example. -/
def Obligations.PackIsShiftAndOr : Prop :=
  (∀ (nib ch : BitVec 4) (a b : BitVec 8),
    pack nib ch a b = ((nib.setWidth 8 <<< 4) ||| ch.setWidth 8) ++ a ++ b) ∧
  pack 0x9 0 0 0 = 0x900000 ∧ pack 0x8 15 0 0 = 0x8F0000 ∧ pack 0xB 15 127 127 = 0xBF7F7F ∧
  pack 0xB 3 1 0x69 = 0xB30169

/-- R95: the range check on the unsigned fields, what its result decides at the acceptance of a message, and its corner
cases. -/
def Obligations.RangeCheckBounds : Prop :=
  (∀ ch a b : BitVec 8, rangeOk ch a b = true ↔ ch.toNat ≤ 15 ∧ a.toNat ≤ 127 ∧ b.toNat ≤ 127) ∧
  (∀ (nib : BitVec 4) (ch a b : BitVec 8) (s : State),
    (rangeOk ch a b = true → acceptSingle nib ch a b s =
      { s with msg := nib ++ ch.extractLsb 3 0 ++ a ++ b, role := .single, fsm := .issue }) ∧
    (rangeOk ch a b = false → acceptSingle nib ch a b s = { s with status := 1, fsm := .resp })) ∧
  rangeOk 15 127 127 = true ∧ rangeOk 16 0 0 = false ∧ rangeOk 255 0 0 = false ∧
  rangeOk 0 128 0 = false ∧ rangeOk 0 0 128 = false ∧ rangeOk 0 0 0 = true

/-- R97: the fields of the two data messages of a code unit, by `split` of its two bytes and by bit positions. -/
def Obligations.DataFieldsByBitPosition : Prop :=
  (∀ (u : BitVec 16) (lo hi : BitVec 8), utf16le u = [lo, hi] →
    lowFields u = ((split lo).1.setWidth 7, (split lo).2) ∧
    highFields u = ((split hi).1.setWidth 7, (split hi).2)) ∧
  (∀ u : BitVec 16,
    lowFields u = ((u.extractLsb 7 7).setWidth 7, u.extractLsb 6 0) ∧
    highFields u = ((u.extractLsb 15 15).setWidth 7, u.extractLsb 14 8)) ∧
  lowFields 0x20AC = (1, 0x2C) ∧ highFields 0x20AC = (0, 0x20)

/-- R71 and R165: with the host's saturation, the range check passes exactly when the host's integers are in range,
whatever their sign and size. -/
def Obligations.SaturatedOperandsKeepTheRangeCheck : Prop :=
  ∀ c a b : Int,
    rangeOk (hostOperand c) (hostOperand a) (hostOperand b) = true ↔
      (0 ≤ c ∧ c ≤ 15) ∧ (0 ≤ a ∧ a ≤ 127) ∧ (0 ≤ b ∧ b ≤ 127)

/-- R127, the count: a frame of n code units has 2n + 2 messages, its markers stand at its ends, and the bytes its data
messages carry are the bytes of the text. -/
def Obligations.FrameMessagesCarryTheText : Prop :=
  ∀ (ch : BitVec 4) (text : List (BitVec 16)),
    (frameMessages ch text).length = 2 * text.length + 2 ∧
    (∃ data, frameMessages ch text = pack 0x9 ch 0 0 :: (data ++ [pack 0x8 ch 0 0]) ∧
      data.map messageByte = textToBytes text ∧
      ∀ m ∈ data, ∃ a b : BitVec 7, m = pack 0xB ch (a.setWidth 8) (b.setWidth 8) ∧ (a = 0 ∨ a = 1))

/-! ## Reset and start -/

/-- R35: the values after the reset event, in `State.reset` and after the event from any state, which leaves LINK_OPEN to
the link manager; the signals that are then high; and that after the event every run shows the same traces and signals
whatever ROLE, CH, MSG, UNIT and STATUS hold. -/
def Obligations.RegistersAfterReset : Prop :=
  (∀ s t : State, t = State.reset ∨ t = resetEvent s →
    t.fsm = .idle ∧ t.role = .single ∧ t.ch = 0x0 ∧ t.msg = 0x000000 ∧ t.unit = 0x0000 ∧ t.status = 0 ∧
    cmdReady t = true ∧ busy t = false ∧ txtReady t = false ∧ msgValid t = false ∧ accReady t = false ∧
    rspValid t = false) ∧
  (∀ s : State, (resetEvent s).linkOpen = s.linkOpen) ∧
  (∀ (s : State) (role : Role) (ch : BitVec 4) (msg : BitVec 24) (unit : BitVec 16) (status : BitVec 3) (k : Nat),
    observe (Host.Core.run Sys2Proof.core k
      { resetEvent s with role := role, ch := ch, msg := msg, unit := unit, status := status }) =
    observe (Host.Core.run Sys2Proof.core k (resetEvent s)))

/-- R160: the reset event, in any state and whether or not the framer has started. (The schedule field is the model's own,
log entry 1.) -/
def Obligations.ResetEventInAnyState : Prop :=
  ∀ (s : State) (rest : List Move), s.schedule = .assertReset :: rest →
    ∃ t, step s = .next t ∧
      t.fsm = .idle ∧ t.role = .single ∧ t.ch = 0x0 ∧ t.msg = 0x000000 ∧ t.unit = 0x0000 ∧ t.status = 0 ∧
      t.wire = s.wire ++ [.reset] ∧ t.respTrace = s.respTrace ++ [.reset] ∧
      t.accOffer = [] ∧ t.txtOffer = [] ∧ cmdReady t = true ∧ t.linkOpen = s.linkOpen ∧
      t.started = true ∧ t.schedule = rest

/-- R163: before the first reset no framer step is taken, and only a reset starts the framer. The started field
and the refusal notStarted are the model's form of this (log entry 10). -/
def Obligations.NothingRunsBeforeTheFirstReset : Prop :=
  (∀ s : State, s.started = false → nextMove s = .framer → step s = .refused .notStarted) ∧
  (∀ s t : State, step s = .next t → s.started = false → nextMove s ≠ .assertReset →
    t.started = false ∧ t.wire = s.wire ∧ t.respTrace = s.respTrace) ∧
  State.reset.started = true

/-! ## Acceptance -/

/-- R101 to R104 at acceptance: each of the six message commands, in range, loads the message of its own kind with its own
fields and goes to ISSUE, whatever LINK_OPEN is; every other part of the state but the taken word is unchanged. -/
def Obligations.MessageCommandsLoadTheirMessage : Prop :=
  ∀ (ch a b : BitVec 8) (s : State), s.fsm = .idle → ch ≤ 15 → a ≤ 127 → b ≤ 127 →
    let loaded (m : BitVec 24) : State :=
      { s with cmdOffer := s.cmdOffer.tail, msg := m, role := .single, fsm := .issue }
    exec (.rawNoteOn ch a b) s = .next (loaded (0x9#4 ++ ch.extractLsb 3 0 ++ a ++ b)) ∧
    exec (.rawNoteOff ch a b) s = .next (loaded (0x8#4 ++ ch.extractLsb 3 0 ++ a ++ b)) ∧
    exec (.rawControlChange ch a b) s = .next (loaded (0xB#4 ++ ch.extractLsb 3 0 ++ a ++ b)) ∧
    exec (.noteOn ch a b) s = .next (loaded (0x9#4 ++ ch.extractLsb 3 0 ++ a ++ b)) ∧
    exec (.noteOff ch a b) s = .next (loaded (0x8#4 ++ ch.extractLsb 3 0 ++ a ++ b)) ∧
    exec (.cc ch a b) s = .next (loaded (0xB#4 ++ ch.extractLsb 3 0 ++ a ++ b))

/-- R101 to R104 at acceptance: out of range, each of the six ends with RANGE_ERR, nothing is loaded or put, and the rest
of the state but the taken word is unchanged. -/
def Obligations.MessageCommandsRejectOutOfRange : Prop :=
  ∀ (ch a b : BitVec 8) (s : State), s.fsm = .idle → 15 < ch ∨ 127 < a ∨ 127 < b →
    let rejected : State := { s with cmdOffer := s.cmdOffer.tail, status := 1, fsm := .resp }
    exec (.rawNoteOn ch a b) s = .next rejected ∧ exec (.rawNoteOff ch a b) s = .next rejected ∧
    exec (.rawControlChange ch a b) s = .next rejected ∧ exec (.noteOn ch a b) s = .next rejected ∧
    exec (.noteOff ch a b) s = .next rejected ∧ exec (.cc ch a b) s = .next rejected

/-- R120 at acceptance: FRAME stores the channel, loads the start marker and goes to ISSUE. -/
def Obligations.FrameLoadsItsStartMarker : Prop :=
  ∀ (ch : BitVec 8) (s : State), s.fsm = .idle → ch ≤ 15 →
    exec (.frame ch) s = .next
      { s with cmdOffer := s.cmdOffer.tail, ch := ch.extractLsb 3 0,
               msg := 0x9#4 ++ ch.extractLsb 3 0 ++ 0#8 ++ 0#8, role := .start, fsm := .issue }

/-- R120 at acceptance: FRAME with a channel above 15 goes to DRAIN with RANGE_ERR, puts nothing and leaves CH alone. -/
def Obligations.FrameOutOfRangeDrains : Prop :=
  ∀ (ch : BitVec 8) (s : State), s.fsm = .idle → 15 < ch →
    exec (.frame ch) s = .next { s with cmdOffer := s.cmdOffer.tail, status := 1, fsm := .drain }

/-- R41: while the framer is busy, a command word of any row stays with the host and nothing changes. That exec of a
waiting word answers the unchanged state is the model's form of it (log entry 11). -/
def Obligations.CommandWordsWaitWhileBusy : Prop :=
  ∀ (s : State), s.fsm ≠ .idle → ∀ (ch a b : BitVec 8) (w : BitVec 32),
    exec (.rawNoteOn ch a b) s = .next s ∧ exec (.rawNoteOff ch a b) s = .next s ∧
    exec (.rawControlChange ch a b) s = .next s ∧ exec (.noteOn ch a b) s = .next s ∧
    exec (.noteOff ch a b) s = .next s ∧ exec (.cc ch a b) s = .next s ∧ exec (.frame ch) s = .next s ∧
    exec (.illegal w) s = .next s

/-! ## Text items -/

/-- R122: inside a frame, a code unit makes the data message of its low byte due on the frame's channel, and END makes the
end marker due; nothing else changes but the taken item. -/
def Obligations.TextItemsInsideAFrame : Prop :=
  ∀ (s : State), s.fsm = .getu →
    (∀ u : BitVec 16, exec (.unitItem u) s = .next
      { s with txtOffer := s.txtOffer.tail, unit := u,
               msg := 0xB#4 ++ s.ch ++ 0#7 ++ u.extractLsb 7 7 ++ 0#1 ++ u.extractLsb 6 0,
               role := .dlo, fsm := .issue }) ∧
    (∀ x : BitVec 16, exec (.endItem x) s = .next
      { s with txtOffer := s.txtOffer.tail, msg := 0x8#4 ++ s.ch ++ 0#8 ++ 0#8,
               role := .endMark, fsm := .issue })

/-- R126: while draining, a code unit is discarded and END ends the draining; no status, no message and no LINK_OPEN is
touched. -/
def Obligations.TextItemsWhileDraining : Prop :=
  ∀ (s : State), s.fsm = .drain →
    (∀ u : BitVec 16, exec (.unitItem u) s = .next { s with txtOffer := s.txtOffer.tail }) ∧
    (∀ x : BitVec 16, exec (.endItem x) s = .next { s with txtOffer := s.txtOffer.tail, fsm := .resp })

/-- R42: in every other state a text item waits with the host. That exec of a waiting item answers the unchanged state is
the model's form of it (log entry 11). -/
def Obligations.TextItemsWaitOutsideAFrame : Prop :=
  ∀ (s : State), s.fsm ≠ .getu → s.fsm ≠ .drain → ∀ u x : BitVec 16,
    exec (.unitItem u) s = .next s ∧ exec (.endItem x) s = .next s

/-! ## Wire messages -/

/-- R106 for the three wire rows: the message in `MSG`, with the link open and a willing transport, is appended to WIRE
and the framer goes to WAIT; nothing else changes. That the wire rows of the table mean the issue step is the model's
choice (log entry 5). -/
def Obligations.WireMessagesArePut : Prop :=
  ∀ (ch : BitVec 4) (a b : BitVec 7) (s : State),
    s.fsm = .issue → s.linkOpen = true → s.transportReady = true →
    let put : State := { s with fsm := .wait, wire := s.wire ++ [.msg s.msg] }
    (s.msg = 0x9#4 ++ ch ++ 0#1 ++ a ++ 0#1 ++ b → exec (.wireNoteOn ch a b) s = .next put) ∧
    (s.msg = 0x8#4 ++ ch ++ 0#1 ++ a ++ 0#1 ++ b → exec (.wireNoteOff ch a b) s = .next put) ∧
    (s.msg = 0xB#4 ++ ch ++ 0#1 ++ a ++ 0#1 ++ b → exec (.wireControlChange ch a b) s = .next put)

/-- R30 and R109: no wire message moves while the framer offers none or the transport takes none. That the wire rows of
the table mean the issue step is the model's choice (log entry 5). -/
def Obligations.WireMessagesWaitOtherwise : Prop :=
  ∀ (ch : BitVec 4) (a b : BitVec 7) (s : State),
    s.fsm ≠ .issue ∨ s.linkOpen = false ∨ s.transportReady = false →
    exec (.wireNoteOn ch a b) s = .next s ∧ exec (.wireNoteOff ch a b) s = .next s ∧
    exec (.wireControlChange ch a b) s = .next s

/-! ## The framer's steps -/

/-- A framer step at a port that is ready runs the instruction decoded from the word at that port: the offered command
word in IDLE, the next text item in GETU and DRAIN, and the message in `MSG` in ISSUE with the link open and the
transport willing. That the issue step reads `MSG` as a wire row of the table and runs it is the model's choice (log
entry 5): R106 puts `MSG` and decodes nothing. The step adds one thing: its own move leaves the schedule, which is a
field of the model's own (log entry 1). -/
def Obligations.StepRunsTheDecodedInstruction : Prop :=
  ∀ s : State, s.started = true → nextMove s = .framer →
    let s' : State := { s with schedule := s.schedule.tail }
    (∀ w rest, s.fsm = .idle → s.cmdOffer = w :: rest → step s = exec (decodeCmd w) s') ∧
    (∀ t rest, s.fsm = .getu ∨ s.fsm = .drain → s.txtOffer = t :: rest → step s = exec (decodeTxt t) s') ∧
    (∀ i, s.fsm = .issue → s.linkOpen = true → s.transportReady = true → decodeWire s.msg = .ok i →
      step s = exec i s')

/-- R105: in ISSUE with LINK_OPEN = 0 the framer fails the message with CONN_ERR and puts nothing. (The schedule field is
the model's own, log entry 1.) -/
def Obligations.LinkCheckFailsTheMessage : Prop :=
  ∀ s : State, s.started = true → nextMove s = .framer → s.fsm = .issue → s.linkOpen = false →
    step s = .next { s with
      schedule := s.schedule.tail, status := 2,
      fsm := if s.role = .start ∨ s.role = .dlo ∨ s.role = .dhi then .drain else .resp }

/-- R106: the issue step, for a `MSG` that is a wire message (R25, which `EveryStepKeepsTheInvariant` states). (The
schedule field is the model's own, log entry 1.) -/
def Obligations.IssueStepPutsTheMessage : Prop :=
  ∀ s : State, s.started = true → nextMove s = .framer → s.fsm = .issue → s.linkOpen = true →
    s.transportReady = true → wireMsgOk s.msg = true →
    step s = .next { s with
      schedule := s.schedule.tail, wire := s.wire ++ [.msg s.msg], fsm := .wait }

/-- R107 and R108: the accepted-count step. Only the count 3 continues, each role in its own way; any other count fails
the message. (The schedule field is the model's own, log entry 1.) -/
def Obligations.AcceptedCountStep : Prop :=
  ∀ (s : State) (c : BitVec 32) (rest : List (BitVec 32)), s.started = true → nextMove s = .framer →
    s.fsm = .wait → s.accOffer = c :: rest →
    let s' : State := { s with schedule := s.schedule.tail, accOffer := rest }
    (c = 3 → s.role = .single → step s = .next { s' with status := 0, fsm := .resp }) ∧
    (c = 3 → s.role = .start → step s = .next { s' with fsm := .getu }) ∧
    (c = 3 → s.role = .dlo → step s = .next
      { s' with msg := 0xB#4 ++ s.ch ++ 0#7 ++ s.unit.extractLsb 15 15 ++ 0#1 ++ s.unit.extractLsb 14 8,
                role := .dhi, fsm := .issue }) ∧
    (c = 3 → s.role = .dhi → step s = .next { s' with fsm := .getu }) ∧
    (c = 3 → s.role = .endMark → step s = .next { s' with status := 0, fsm := .resp }) ∧
    (c ≠ 3 → step s = .next { s' with
      status := 3, fsm := if s.role = .start ∨ s.role = .dlo ∨ s.role = .dhi then .drain else .resp })

/-- R143: the abort procedure writes the status and goes to DRAIN for a frame whose END was not taken and to RESP
otherwise, and changes nothing else. The rejections at acceptance do not go through it: they go to RESP, and to DRAIN for
a FRAME, whatever ROLE holds. -/
def Obligations.FailSavesOnlyTheStatus : Prop :=
  ∀ (e : BitVec 3) (s : State),
    (s.role = .start ∨ s.role = .dlo ∨ s.role = .dhi → fail e s = { s with status := e, fsm := .drain }) ∧
    (s.role = .single ∨ s.role = .endMark → fail e s = { s with status := e, fsm := .resp }) ∧
    acceptIllegal s = { s with status := 4, fsm := .resp } ∧
    (∀ (nib : BitVec 4) (ch a b : BitVec 8), 15 < ch ∨ 127 < a ∨ 127 < b →
      acceptSingle nib ch a b s = { s with status := 1, fsm := .resp }) ∧
    (∀ ch : BitVec 8, 15 < ch → acceptFrame ch s = { s with status := 1, fsm := .drain })

/-- R110: the response step puts STATUS on RSP and returns to IDLE, where the next command may be accepted. (The schedule
field is the model's own, log entry 1.) -/
def Obligations.ResponseStepReturnsToIdle : Prop :=
  ∀ s : State, s.started = true → nextMove s = .framer → s.fsm = .resp → s.hostReady = true →
    ∃ t, step s = .next t ∧ cmdReady t = true ∧
      t = { s with schedule := s.schedule.tail, respTrace := s.respTrace ++ [.status s.status], fsm := .idle }

/-- R167: with no partner willing and no move to come, the framer waits for ever, and a wait is no stop. That a wait is a
step to the same state is the model's choice (log entry 8). -/
def Obligations.WaitsHaveNoTimeout : Prop :=
  ∀ s : State, s.started = true → s.schedule = [] →
    (s.fsm = .idle ∧ s.cmdOffer = [] ∨
      s.fsm = .issue ∧ s.linkOpen = true ∧ s.transportReady = false ∨
      s.fsm = .wait ∧ s.accOffer = [] ∨
      (s.fsm = .getu ∨ s.fsm = .drain) ∧ s.txtOffer = [] ∨
      s.fsm = .resp ∧ s.hostReady = false) →
    ∀ k, Host.Core.run Sys2Proof.core k s = .next s

/-- R30: the ready and valid signals are these functions of the state. -/
def Obligations.SignalsAreFunctionsOfTheState : Prop :=
  ∀ s : State,
    (cmdReady s = true ↔ s.fsm = .idle) ∧ (txtReady s = true ↔ s.fsm = .getu ∨ s.fsm = .drain) ∧
    (msgValid s = true ↔ s.fsm = .issue ∧ s.linkOpen = true) ∧ (accReady s = true ↔ s.fsm = .wait) ∧
    (rspValid s = true ↔ s.fsm = .resp) ∧ (busy s = true ↔ s.fsm ≠ .idle)

/-- Each move of another agent changes its own offer or level and nothing else of the state (the schedule's head apart):
the framer's registers and the traces are the framer's alone (R20, R28, R41 to R44). The moves and the offers as data are
the model's form of the draws (log entries 1 and 2). -/
def Obligations.OtherAgentsOnlyOffer : Prop :=
  ∀ (s : State) (rest : List Move),
    (∀ b, s.schedule = .driveLink b :: rest → step s = .next { s with schedule := rest, linkOpen := b }) ∧
    (∀ w, s.schedule = .offerCmd w :: rest →
      step s = .next { s with schedule := rest, cmdOffer := s.cmdOffer ++ [w] }) ∧
    (∀ t, s.schedule = .offerTxt t :: rest →
      step s = .next { s with schedule := rest, txtOffer := s.txtOffer ++ [t] }) ∧
    (∀ c, s.schedule = .offerAcc c :: rest →
      step s = .next { s with schedule := rest, accOffer := s.accOffer ++ [c] }) ∧
    (∀ b, s.schedule = .hostReady b :: rest → step s = .next { s with schedule := rest, hostReady := b }) ∧
    (∀ b, s.schedule = .transportReady b :: rest →
      step s = .next { s with schedule := rest, transportReady := b })

/-! ## Invariants and whole-machine rules -/

/-- The invariant holds right after reset. -/
def Obligations.ResetMeetsTheInvariant : Prop := Inv State.reset

/-- Every step, of any agent, keeps the invariant: `MSG` is a wire message that its role calls for whenever it is due or
in flight, the message in flight is the last of WIRE, STATUS and the response trace hold legal codes, DRAIN holds a
failure, and WIRE holds wire messages only. -/
def Obligations.EveryStepKeepsTheInvariant : Prop :=
  ∀ s t : State, Inv s → step s = .next t → Inv t

/-- A started framer that meets the invariant never stops: every step answers a next state. R140 says that the framer
never halts; that a waiting framer takes a step, to the same state, is the model's choice (log entry 8), where R167 and
U9 call a wait stuck. -/
def Obligations.AStartedFramerNeverStops : Prop :=
  ∀ s : State, Inv s → s.started = true → ∃ t, step s = .next t ∧ t.started = true

/-- R37: over every run, the traces only grow at their ends. -/
def Obligations.TracesOnlyGrow : Prop :=
  ∀ (k : Nat) (s t : State), Host.Core.run Sys2Proof.core k s = .next t →
    s.wire <+: t.wire ∧ s.respTrace <+: t.respTrace

/-- R130: CH does not change while a command is in progress (no reset), and every message put in a frame's role carries
it. -/
def Obligations.OneChannelPerFrame : Prop :=
  ∀ s t : State, Inv s → step s = .next t → s.fsm ≠ .idle → nextMove s ≠ .assertReset →
    t.ch = s.ch ∧
    (∀ m, t.wire = s.wire ++ [.msg m] → s.role ≠ .single → m.extractLsb 19 16 = s.ch)

/-- R44: a message is put only in ISSUE and leads to WAIT; WAIT is entered only by putting a message, and left only by
taking one count or by a reset; and no count is taken in any other state or while WAIT is kept. So MSG and ACC transfers
alternate. -/
def Obligations.MessagesAndCountsAlternate : Prop :=
  ∀ s t : State, step s = .next t → nextMove s ≠ .assertReset →
    (t.wire = s.wire ∨ s.fsm = .issue ∧ t.fsm = .wait ∧ t.wire = s.wire ++ [.msg s.msg]) ∧
    (s.fsm = .wait → t.fsm = .wait ∧ t.wire = s.wire ∨
      ∃ c, s.accOffer = c :: t.accOffer ∧ t.wire = s.wire) ∧
    (s.fsm ≠ .wait → t.fsm = .wait → s.fsm = .issue ∧ t.wire = s.wire ++ [.msg s.msg]) ∧
    (s.fsm = .wait → t.fsm = .wait → t.accOffer = s.accOffer ∨ ∃ c, t.accOffer = s.accOffer ++ [c]) ∧
    (s.fsm ≠ .wait → t.accOffer = s.accOffer ∨ ∃ c, t.accOffer = s.accOffer ++ [c])

/-- R43 and R164: IDLE is left only by taking one command word; no word is taken while IDLE is kept or in any other
state; and RSP gets a status only on the way from RESP back to IDLE. -/
def Obligations.OneResponsePerCommand : Prop :=
  ∀ s t : State, step s = .next t → nextMove s ≠ .assertReset →
    (s.fsm = .idle → t.fsm ≠ .idle → ∃ w, s.cmdOffer = w :: t.cmdOffer) ∧
    (s.fsm = .idle → t.fsm = .idle → t.cmdOffer = s.cmdOffer ∨ ∃ w, t.cmdOffer = s.cmdOffer ++ [w]) ∧
    (s.fsm ≠ .idle → t.cmdOffer = s.cmdOffer ∨ ∃ w, t.cmdOffer = s.cmdOffer ++ [w]) ∧
    (s.fsm ≠ .idle → t.fsm = .idle →
      s.fsm = .resp ∧ t.respTrace = s.respTrace ++ [.status s.status]) ∧
    (¬ (s.fsm = .resp ∧ t.fsm = .idle) → t.respTrace = s.respTrace)

/-- R147: in DRAIN and RESP no framer step puts a message, writes STATUS, takes a count or reads LINK_OPEN. (The schedule
field is the model's own, log entry 1.) -/
def Obligations.NoFailureAfterAFailure : Prop :=
  ∀ s : State, s.started = true → nextMove s = .framer → s.fsm = .drain ∨ s.fsm = .resp →
    ∃ t, step s = .next t ∧ t.status = s.status ∧ t.wire = s.wire ∧ t.accOffer = s.accOffer ∧
      (t.fsm = .drain ∨ t.fsm = .resp ∨ t.fsm = .idle) ∧
      ∀ b, step { s with linkOpen := b } = .next { t with linkOpen := b }

/-- R28 and R148: the framer never writes LINK_OPEN, and outside ISSUE it does not read it. -/
def Obligations.LinkIsReadOnlyInIssue : Prop :=
  (∀ s t : State, step s = .next t → (∀ b, nextMove s ≠ .driveLink b) → t.linkOpen = s.linkOpen) ∧
  (∀ (s t : State) (b : Bool), s.fsm ≠ .issue → nextMove s = .framer → step s = .next t →
    step { s with linkOpen := b } = .next { t with linkOpen := b })

/-- R163 (2) and R105: while the link manager leaves LINK_OPEN at 0, no run puts any message on the wire. -/
def Obligations.ClosedLinkSendsNothing : Prop :=
  ∀ (k : Nat) (s t : State), s.linkOpen = false → (∀ m ∈ s.schedule, m ≠ .driveLink true) →
    Host.Core.run Sys2Proof.core k s = .next t →
    t.linkOpen = false ∧ wireMessages t.wire = wireMessages s.wire

/-- R36: from IDLE, the contents of ROLE, CH, MSG, UNIT and STATUS cannot be observed: every run shows the same traces and
the same signals whatever they hold. -/
def Obligations.DataRegistersAreUnobservableFromIdle : Prop :=
  ∀ (s : State) (role : Role) (ch : BitVec 4) (msg : BitVec 24) (unit : BitVec 16) (status : BitVec 3) (k : Nat),
    s.fsm = .idle →
    observe (Host.Core.run Sys2Proof.core k
      { s with role := role, ch := ch, msg := msg, unit := unit, status := status }) =
    observe (Host.Core.run Sys2Proof.core k s)

/-- R113: from the acceptance of a single command until IDLE, CH and UNIT are neither written nor read: with other
contents the same run takes the same steps, and both keep what they held. -/
def Obligations.SingleCommandsIgnoreChannelAndUnit : Prop :=
  ∀ (k : Nat) (s t : State) (ch : BitVec 4) (unit : BitVec 16),
    s.cmdOffer = [] → (∀ m ∈ s.schedule, quietMove m = true) →
    s.fsm = .issue → s.role = .single →
    Host.Core.run Sys2Proof.core k s = .next t →
    t.ch = s.ch ∧ t.unit = s.unit ∧
    Host.Core.run Sys2Proof.core k { s with ch := ch, unit := unit } = .next { t with ch := ch, unit := unit }

/-- R112: the number of messages a command other than a frame puts is fixed by its status: none for ILLEGAL_CMD,
RANGE_ERR and CONN_ERR, exactly one for OK and TRANSPORT_ERR. For every schedule of the partners (no reset, no further
command); the text items offered meanwhile stay on TXT. -/
def Obligations.StatusFixesTheMessageCount : Prop :=
  ∀ (k : Nat) (s t : State) (w : BitVec 32),
    s.fsm = .idle → s.cmdOffer = [w] → (∀ m ∈ s.schedule, quietMove m = true) →
    (∀ ch, decodeCmd w ≠ .frame ch) →
    Host.Core.run Sys2Proof.core k s = .next t → t.fsm = .idle → t.cmdOffer = [] →
    ∃ c m, t.respTrace = s.respTrace ++ [.status c] ∧ t.txtOffer = s.txtOffer ++ textWithin k s ∧
      ((c = 1 ∨ c = 2 ∨ c = 4) ∧ t.wire = s.wire ∨ (c = 0 ∨ c = 3) ∧ t.wire = s.wire ++ [.msg m])

/-- R51, R127, R129 and R144, for every schedule of the partners (no reset, no further command), with the text and the
counts that stand offered or arrive during the run: the messages a command puts are a prefix, in order, of the ones it
owes for its whole text; each is answered by one count, taken in order, but for one still in flight; every count but the
last taken is 3, and so is the last while the command goes on; one response follows; it is OK only if every owed message
was put and every count was 3; and, where the failure happens within the run, it is TRANSPORT_ERR exactly if the last
count was not 3. Counts may stand before their messages (log entry 13). -/
def Obligations.WireFollowsTheOwedMessages : Prop :=
  ∀ (k : Nat) (s t : State), s.fsm ≠ .idle → s.cmdOffer = [] → (∀ m ∈ s.schedule, quietMove m = true) →
    Host.Core.run Sys2Proof.core k s = .next t →
    let due := owed (withText (textWithin k s) s)
    ∃ (put : List (BitVec 24)) (taken : List (BitVec 32)),
      put <+: due ∧ t.wire = s.wire ++ put.map .msg ∧
      s.accOffer ++ countsWithin k s = taken ++ t.accOffer ∧
      put.length + (if s.fsm = .wait then 1 else 0) = taken.length + (if t.fsm = .wait then 1 else 0) ∧
      (∀ c ∈ taken.dropLast, c = 3) ∧
      (t.fsm = .issue ∨ t.fsm = .wait ∨ t.fsm = .getu → ∀ c ∈ taken, c = 3) ∧
      (t.fsm ≠ .idle → t.respTrace = s.respTrace) ∧
      (t.fsm = .idle → ∃ c, t.respTrace = s.respTrace ++ [.status c] ∧
        (c = 0 → put = due ∧ ∀ x ∈ taken, x = 3) ∧
        (s.fsm ≠ .drain → s.fsm ≠ .resp → (c = 3 ↔ ∃ x ∈ taken, x ≠ 3)))

/-- R127: what an accepted FRAME owes is the frame of the text that stands in TXT and is offered later: the start
marker, two data messages for each code unit in stream order, and the end marker. -/
def Obligations.AcceptedFrameOwesItsMessages : Prop :=
  ∀ (ch : BitVec 8) (s t : State), s.fsm = .idle → ch ≤ 15 → exec (.frame ch) s = .next t →
    ∀ later : List (BitVec 17),
      owed (withText later t) = frameMessages (ch.extractLsb 3 0) (streamUnits (s.txtOffer ++ later))

/-- R66 and R126: a FRAME in progress consumes exactly the rest of one text stream, whether its items stand in TXT or
arrive during the run, whether it succeeds or fails, and whatever the partners do (no reset, no further command); any
other command in progress consumes no text item. -/
def Obligations.FrameConsumesOneTextStream : Prop :=
  ∀ (k : Nat) (s t : State), s.fsm ≠ .idle → s.cmdOffer = [] → (∀ m ∈ s.schedule, quietMove m = true) →
    Host.Core.run Sys2Proof.core k s = .next t → t.fsm = .idle →
    let offered := s.txtOffer ++ textWithin k s
    t.txtOffer = if owesStream s then afterStream offered else offered

/-- R127, OK: with partners that accept everything, a FRAME of n code units runs in 5n + 7 framer steps to the whole
frame on the wire, the response OK and IDLE, with its own text stream consumed and what stands behind it left in place.
The five n plus seven steps count the framer's own steps in the model, which is untimed; that the counts stand offered
before their messages is the model's choice (log entry 13). -/
def Obligations.SuccessfulFrameRun : Prop :=
  ∀ (ch : BitVec 8) (text : List (BitVec 16)) (words : List (BitVec 32)) (items : List (BitVec 17))
    (counts : List (BitVec 32)) (s : State),
    s.started = true → s.schedule = [] → s.fsm = .idle → s.linkOpen = true → s.transportReady = true →
    s.hostReady = true → ch ≤ 15 →
    s.cmdOffer = (0x5#4 ++ 0x0#4 ++ ch ++ 0x00#8 ++ 0x00#8) :: words →
    s.txtOffer = textStream text ++ items →
    s.accOffer = List.replicate (2 * text.length + 2) 3 ++ counts →
    ∃ t, Host.Core.run Sys2Proof.core (5 * text.length + 7) s = .next t ∧ t.fsm = .idle ∧
      t.wire = s.wire ++ (frameMessages (ch.extractLsb 3 0) text).map .msg ∧
      t.respTrace = s.respTrace ++ [.status 0] ∧
      t.cmdOffer = words ∧ t.txtOffer = items ∧ t.accOffer = counts ∧ t.ch = ch.extractLsb 3 0

/-- R105, R126, R143: a frame whose due message meets a closed link sends nothing more, discards the rest of its text
stream and responds CONN_ERR, with every other part of the state as it was. -/
def Obligations.AbortedFrameDrainsAndReports : Prop :=
  ∀ (text : List (BitVec 16)) (items : List (BitVec 17)) (s : State),
    s.started = true → s.schedule = [] → s.fsm = .issue → s.linkOpen = false → s.hostReady = true →
    s.role = .start ∨ s.role = .dlo ∨ s.role = .dhi →
    s.txtOffer = textStream text ++ items →
    Host.Core.run Sys2Proof.core (text.length + 3) s = .next
      { s with txtOffer := items, status := 2, respTrace := s.respTrace ++ [.status 2], fsm := .idle }

/-- R101 to R104: a single in-range command, with a willing transport and host, runs in four framer steps to its one
message on the wire and OK for the count 3 or TRANSPORT_ERR for any other count. That the count stands offered before
the message is the model's choice (log entry 13). -/
def Obligations.SingleCommandRun : Prop :=
  ∀ (i : Instr) (nib : BitVec 4) (ch a b : BitVec 8) (c : BitVec 32) (words counts : List (BitVec 32)) (s : State),
    (i = .rawNoteOn ch a b ∧ nib = 0x9 ∨ i = .rawNoteOff ch a b ∧ nib = 0x8 ∨
      i = .rawControlChange ch a b ∧ nib = 0xB ∨ i = .noteOn ch a b ∧ nib = 0x9 ∨
      i = .noteOff ch a b ∧ nib = 0x8 ∨ i = .cc ch a b ∧ nib = 0xB) →
    ch ≤ 15 → a ≤ 127 → b ≤ 127 →
    s.started = true → s.schedule = [] → s.fsm = .idle → s.linkOpen = true → s.transportReady = true →
    s.hostReady = true → (∃ w, encode i = .cmd w ∧ s.cmdOffer = w :: words) → s.accOffer = c :: counts →
    ∃ t, Host.Core.run Sys2Proof.core 4 s = .next t ∧ t.fsm = .idle ∧
      t.wire = s.wire ++ [.msg (nib ++ ch.extractLsb 3 0 ++ a ++ b)] ∧
      t.respTrace = s.respTrace ++ [.status (if c = 3 then 0 else 3)] ∧
      t.cmdOffer = words ∧ t.accOffer = counts ∧ t.txtOffer = s.txtOffer

/-- R145: on a closed link, every command word ends with the first failure that applies, legality before range before
link, and nothing is put on the wire. The host offers an END item for a FRAME to drain. -/
def Obligations.FirstFailureIsReported : Prop :=
  ∀ (w : BitVec 32) (words : List (BitVec 32)) (items : List (BitVec 17)) (s : State),
    s.started = true → s.schedule = [] → s.fsm = .idle → s.linkOpen = false → s.hostReady = true →
    s.cmdOffer = w :: words → s.txtOffer = 0x10000#17 :: items →
    ∃ k t, Host.Core.run Sys2Proof.core k s = .next t ∧ t.fsm = .idle ∧ t.cmdOffer = words ∧ t.wire = s.wire ∧
      t.respTrace = s.respTrace ++ [.status (
        if decodeCmd w = .illegal w then 4
        else if (w.extractLsb 23 16).toNat ≤ 15 ∧ (w.extractLsb 15 8).toNat ≤ 127 ∧ (w.extractLsb 7 0).toNat ≤ 127
          then 2
        else 1)]

/-- R128: the host's result of `send` is the text on OK and the empty text otherwise, so for the empty text only the
status tells success from failure. -/
def Obligations.HostResultOfSend : Prop :=
  (∀ (text : List (BitVec 16)) (c : BitVec 3),
    (c = 0 → hostSendResult text c = text) ∧ (c ≠ 0 → hostSendResult text c = [])) ∧
  (∀ c d : BitVec 3, hostSendResult [] c = hostSendResult [] d) ∧
  hostSuccess 0 = true ∧ (∀ c : BitVec 3, c ≠ 0 → hostSuccess c = false)
end

