-- ==== Sys2Proof/Laws/Assembler.lean ====
section
/-! SUPPORT. Laws/Assembler: what the reader of a written line can do (spec/30_encoding.md R74): reading digits, trimming
spaces and cutting at commas, each said once. -/
namespace Sys2Proof.Machine

/-- Characters that stand for digits of the base are read as their number, the first digit most significant. -/
theorem digits_map {base : Nat} {char : Nat → Char} (hc : ∀ d < base, digitValue (char d) = some d) (ds : List Nat) :
    ∀ acc, (∀ d ∈ ds, d < base) →
      digits base acc (ds.map char) = some (ds.foldl (fun n d => base * n + d) acc) := by
  induction ds with
  | nil => exact fun _ _ => rfl
  | cons d ds ih =>
    intro acc h
    have hd := h d (by simp)
    simp only [List.map_cons, digits, hc d hd, hd, if_true, List.foldl_cons]
    exact ih _ fun x hx => h x (by simp [hx])

/-- A digit written with a small letter has its value. -/
theorem digitValue_digitChar : ∀ d < 16, digitValue (Nat.digitChar d) = some d := by decide

/-- A digit written with a capital letter has its value. -/
theorem digitValue_digitChar_toUpper : ∀ d < 16, digitValue (Nat.digitChar d).toUpper = some d := by decide

/-- A space is no digit. -/
theorem digits_space (base : Nat) (cs : List Char) : ∀ acc, ' ' ∈ cs → digits base acc cs = none := by
  induction cs with
  | nil => intro _ h; cases h
  | cons c cs ih =>
    intro acc h
    unfold digits
    rcases List.mem_cons.1 h with h | h
    · subst h; rfl
    · split
      · rfl
      · split
        · exact ih _ h
        · rfl

/-- An operand without the prefix `0x` is decimal. -/
theorem operandValue_decimal {cs : List Char} (h : cs ≠ []) (hx : ∀ rest, cs ≠ '0' :: 'x' :: rest) :
    operandValue cs = digits 10 0 cs := by
  unfold operandValue
  split
  · exact absurd rfl h
  · exact absurd rfl (hx _)
  · exact absurd rfl (hx _)
  · rfl

/-- An operand with the prefix `0x` is hexadecimal. -/
theorem operandValue_hex {cs : List Char} (h : cs ≠ []) : operandValue ('0' :: 'x' :: cs) = digits 16 0 cs := by
  unfold operandValue
  split
  · rename_i h'; cases h'
  · rename_i h'; cases h'; exact absurd rfl h
  · rename_i h'; cases h'; rfl
  · rename_i h'; exact absurd rfl (h' cs)

/-- Trimming takes off the space before a text that holds none. -/
theorem trimSpaces_space {cs : List Char} (h : ' ' ∉ cs) : trimSpaces (' ' :: cs) = cs := by
  have keep : ∀ l : List Char, ' ' ∉ l → l.dropWhile (· = ' ') = l := by
    intro l hl
    cases l with
    | nil => rfl
    | cons c l => simp at hl; simp [Ne.symm hl.1]
  unfold trimSpaces
  rw [List.dropWhile_cons_of_pos (by simp), keep cs h, keep cs.reverse (by simpa using h), List.reverse_reverse]

/-- A text without the separator is one piece. -/
theorem cutAt_self {sep : Char} {cs : List Char} (h : sep ∉ cs) : cutAt sep cs = [cs] := by
  induction cs with
  | nil => rfl
  | cons c cs ih => simp at h; simp [cutAt, Ne.symm h.1, ih h.2]

/-- The first piece ends at the first separator. -/
theorem cutAt_append {sep : Char} {cs : List Char} (h : sep ∉ cs) (rest : List Char) :
    cutAt sep (cs ++ sep :: rest) = cs :: cutAt sep rest := by
  induction cs with
  | nil => simp [cutAt]
  | cons c cs ih => simp at h; simp [cutAt, Ne.symm h.1, ih h.2]

end Sys2Proof.Machine
end

