-- ==== Sys2Proof/Laws/Codec.lean ====
section
/-! SUPPORT. Laws/Codec: the fields of a wire word read back from it, and the words the decoder of MSG accepts. -/
namespace Sys2Proof.Machine

/-- `pack` with 7-bit data fields is the WIRE24 word of the same fields. -/
theorem pack_setWidth (n : Nibble) (c : Channel) (a b : Data7) :
    pack n c (a.setWidth 8) (b.setWidth 8) = wireWord n c a b := by
  apply BitVec.eq_of_getLsbD_eq
  intro i hi
  simp only [wireWord, pack, BitVec.getLsbD_append, BitVec.getLsbD_setWidth]
  interval_cases i <;> simp

/-- A word with the two top bits clear is the WIRE24 word of its own fields. -/
theorem wireWord_fields (m : WireMsg) (h : wireTopBitsClear m = true) :
    wireWord (wireNibble m) (wireChannel m) (wireA m) (wireB m) = m := by
  simp only [wireTopBitsClear, Bool.and_eq_true, Bool.not_eq_true'] at h
  obtain ⟨h15, h7⟩ := h
  apply BitVec.eq_of_getLsbD_eq
  intro i hi
  simp only [wireWord, wireNibble, wireChannel, wireA, wireB, BitVec.getLsbD_append,
    BitVec.getLsbD_extractLsb']
  interval_cases i <;> simp_all

@[simp] theorem wireNibble_wireWord (n : Nibble) (c : Channel) (a b : Data7) :
    wireNibble (wireWord n c a b) = n := by
  apply BitVec.eq_of_getLsbD_eq
  intro i hi
  simp only [wireWord, wireNibble, BitVec.getLsbD_append, BitVec.getLsbD_extractLsb']
  interval_cases i <;> simp

@[simp] theorem wireTopBitsClear_wireWord (n : Nibble) (c : Channel) (a b : Data7) :
    wireTopBitsClear (wireWord n c a b) = true := by
  simp only [wireWord, wireTopBitsClear, BitVec.getLsbD_append]
  simp

/-- A word with the two top bits clear and a status nibble is the row of that nibble. -/
theorem decodeWire_eq (m : WireMsg) :
    decodeWire m =
      if wireTopBitsClear m = false then .error .dataTopBit
      else if wireNibble m = 0x9#4 then .ok (.wireNoteOn (wireChannel m) (wireA m) (wireB m))
      else if wireNibble m = 0x8#4 then .ok (.wireNoteOff (wireChannel m) (wireA m) (wireB m))
      else if wireNibble m = 0xB#4 then .ok (.wireControlChange (wireChannel m) (wireA m) (wireB m))
      else .error .statusNibble := by
  unfold decodeWire
  cases wireTopBitsClear m <;> rfl

end Sys2Proof.Machine
end

