-- ==== Sys2Proof/Laws/State.lean ====
section
/-! SUPPORT. Laws/State: one lemma per field per named update of `Machine.Ops`, each true by `rfl`, so that no proof
unfolds a record update. -/
namespace Sys2Proof.Machine

/-! ## takeCmd -/

@[simp] theorem takeCmd_fsm (s : State) : (takeCmd s).fsm = s.fsm := rfl
@[simp] theorem takeCmd_role (s : State) : (takeCmd s).role = s.role := rfl
@[simp] theorem takeCmd_ch (s : State) : (takeCmd s).ch = s.ch := rfl
@[simp] theorem takeCmd_msg (s : State) : (takeCmd s).msg = s.msg := rfl
@[simp] theorem takeCmd_unit (s : State) : (takeCmd s).unit = s.unit := rfl
@[simp] theorem takeCmd_status (s : State) : (takeCmd s).status = s.status := rfl
@[simp] theorem takeCmd_linkOpen (s : State) : (takeCmd s).linkOpen = s.linkOpen := rfl
@[simp] theorem takeCmd_wire (s : State) : (takeCmd s).wire = s.wire := rfl
@[simp] theorem takeCmd_respTrace (s : State) : (takeCmd s).respTrace = s.respTrace := rfl
@[simp] theorem takeCmd_cmdOffer (s : State) : (takeCmd s).cmdOffer = s.cmdOffer.tail := rfl
@[simp] theorem takeCmd_txtOffer (s : State) : (takeCmd s).txtOffer = s.txtOffer := rfl
@[simp] theorem takeCmd_accOffer (s : State) : (takeCmd s).accOffer = s.accOffer := rfl
@[simp] theorem takeCmd_hostReady (s : State) : (takeCmd s).hostReady = s.hostReady := rfl
@[simp] theorem takeCmd_transportReady (s : State) : (takeCmd s).transportReady = s.transportReady := rfl
@[simp] theorem takeCmd_started (s : State) : (takeCmd s).started = s.started := rfl
@[simp] theorem takeCmd_schedule (s : State) : (takeCmd s).schedule = s.schedule := rfl

/-! ## takeTxt -/

@[simp] theorem takeTxt_fsm (s : State) : (takeTxt s).fsm = s.fsm := rfl
@[simp] theorem takeTxt_role (s : State) : (takeTxt s).role = s.role := rfl
@[simp] theorem takeTxt_ch (s : State) : (takeTxt s).ch = s.ch := rfl
@[simp] theorem takeTxt_msg (s : State) : (takeTxt s).msg = s.msg := rfl
@[simp] theorem takeTxt_unit (s : State) : (takeTxt s).unit = s.unit := rfl
@[simp] theorem takeTxt_status (s : State) : (takeTxt s).status = s.status := rfl
@[simp] theorem takeTxt_linkOpen (s : State) : (takeTxt s).linkOpen = s.linkOpen := rfl
@[simp] theorem takeTxt_wire (s : State) : (takeTxt s).wire = s.wire := rfl
@[simp] theorem takeTxt_respTrace (s : State) : (takeTxt s).respTrace = s.respTrace := rfl
@[simp] theorem takeTxt_cmdOffer (s : State) : (takeTxt s).cmdOffer = s.cmdOffer := rfl
@[simp] theorem takeTxt_txtOffer (s : State) : (takeTxt s).txtOffer = s.txtOffer.tail := rfl
@[simp] theorem takeTxt_accOffer (s : State) : (takeTxt s).accOffer = s.accOffer := rfl
@[simp] theorem takeTxt_hostReady (s : State) : (takeTxt s).hostReady = s.hostReady := rfl
@[simp] theorem takeTxt_transportReady (s : State) : (takeTxt s).transportReady = s.transportReady := rfl
@[simp] theorem takeTxt_started (s : State) : (takeTxt s).started = s.started := rfl
@[simp] theorem takeTxt_schedule (s : State) : (takeTxt s).schedule = s.schedule := rfl

/-! ## takeAcc -/

@[simp] theorem takeAcc_fsm (s : State) : (takeAcc s).fsm = s.fsm := rfl
@[simp] theorem takeAcc_role (s : State) : (takeAcc s).role = s.role := rfl
@[simp] theorem takeAcc_ch (s : State) : (takeAcc s).ch = s.ch := rfl
@[simp] theorem takeAcc_msg (s : State) : (takeAcc s).msg = s.msg := rfl
@[simp] theorem takeAcc_unit (s : State) : (takeAcc s).unit = s.unit := rfl
@[simp] theorem takeAcc_status (s : State) : (takeAcc s).status = s.status := rfl
@[simp] theorem takeAcc_linkOpen (s : State) : (takeAcc s).linkOpen = s.linkOpen := rfl
@[simp] theorem takeAcc_wire (s : State) : (takeAcc s).wire = s.wire := rfl
@[simp] theorem takeAcc_respTrace (s : State) : (takeAcc s).respTrace = s.respTrace := rfl
@[simp] theorem takeAcc_cmdOffer (s : State) : (takeAcc s).cmdOffer = s.cmdOffer := rfl
@[simp] theorem takeAcc_txtOffer (s : State) : (takeAcc s).txtOffer = s.txtOffer := rfl
@[simp] theorem takeAcc_accOffer (s : State) : (takeAcc s).accOffer = s.accOffer.tail := rfl
@[simp] theorem takeAcc_hostReady (s : State) : (takeAcc s).hostReady = s.hostReady := rfl
@[simp] theorem takeAcc_transportReady (s : State) : (takeAcc s).transportReady = s.transportReady := rfl
@[simp] theorem takeAcc_started (s : State) : (takeAcc s).started = s.started := rfl
@[simp] theorem takeAcc_schedule (s : State) : (takeAcc s).schedule = s.schedule := rfl

/-! ## putMsg -/

@[simp] theorem putMsg_fsm (m : WireMsg) (s : State) : (putMsg m s).fsm = s.fsm := rfl
@[simp] theorem putMsg_role (m : WireMsg) (s : State) : (putMsg m s).role = s.role := rfl
@[simp] theorem putMsg_ch (m : WireMsg) (s : State) : (putMsg m s).ch = s.ch := rfl
@[simp] theorem putMsg_msg (m : WireMsg) (s : State) : (putMsg m s).msg = s.msg := rfl
@[simp] theorem putMsg_unit (m : WireMsg) (s : State) : (putMsg m s).unit = s.unit := rfl
@[simp] theorem putMsg_status (m : WireMsg) (s : State) : (putMsg m s).status = s.status := rfl
@[simp] theorem putMsg_linkOpen (m : WireMsg) (s : State) : (putMsg m s).linkOpen = s.linkOpen := rfl
@[simp] theorem putMsg_wire (m : WireMsg) (s : State) : (putMsg m s).wire = s.wire ++ [.msg m] := rfl
@[simp] theorem putMsg_respTrace (m : WireMsg) (s : State) : (putMsg m s).respTrace = s.respTrace := rfl
@[simp] theorem putMsg_cmdOffer (m : WireMsg) (s : State) : (putMsg m s).cmdOffer = s.cmdOffer := rfl
@[simp] theorem putMsg_txtOffer (m : WireMsg) (s : State) : (putMsg m s).txtOffer = s.txtOffer := rfl
@[simp] theorem putMsg_accOffer (m : WireMsg) (s : State) : (putMsg m s).accOffer = s.accOffer := rfl
@[simp] theorem putMsg_hostReady (m : WireMsg) (s : State) : (putMsg m s).hostReady = s.hostReady := rfl
@[simp] theorem putMsg_transportReady (m : WireMsg) (s : State) : (putMsg m s).transportReady = s.transportReady := rfl
@[simp] theorem putMsg_started (m : WireMsg) (s : State) : (putMsg m s).started = s.started := rfl
@[simp] theorem putMsg_schedule (m : WireMsg) (s : State) : (putMsg m s).schedule = s.schedule := rfl

/-! ## putRsp -/

@[simp] theorem putRsp_fsm (c : RespCode) (s : State) : (putRsp c s).fsm = s.fsm := rfl
@[simp] theorem putRsp_role (c : RespCode) (s : State) : (putRsp c s).role = s.role := rfl
@[simp] theorem putRsp_ch (c : RespCode) (s : State) : (putRsp c s).ch = s.ch := rfl
@[simp] theorem putRsp_msg (c : RespCode) (s : State) : (putRsp c s).msg = s.msg := rfl
@[simp] theorem putRsp_unit (c : RespCode) (s : State) : (putRsp c s).unit = s.unit := rfl
@[simp] theorem putRsp_status (c : RespCode) (s : State) : (putRsp c s).status = s.status := rfl
@[simp] theorem putRsp_linkOpen (c : RespCode) (s : State) : (putRsp c s).linkOpen = s.linkOpen := rfl
@[simp] theorem putRsp_wire (c : RespCode) (s : State) : (putRsp c s).wire = s.wire := rfl
@[simp] theorem putRsp_respTrace (c : RespCode) (s : State) : (putRsp c s).respTrace = s.respTrace ++ [.status c] := rfl
@[simp] theorem putRsp_cmdOffer (c : RespCode) (s : State) : (putRsp c s).cmdOffer = s.cmdOffer := rfl
@[simp] theorem putRsp_txtOffer (c : RespCode) (s : State) : (putRsp c s).txtOffer = s.txtOffer := rfl
@[simp] theorem putRsp_accOffer (c : RespCode) (s : State) : (putRsp c s).accOffer = s.accOffer := rfl
@[simp] theorem putRsp_hostReady (c : RespCode) (s : State) : (putRsp c s).hostReady = s.hostReady := rfl
@[simp] theorem putRsp_transportReady (c : RespCode) (s : State) : (putRsp c s).transportReady = s.transportReady := rfl
@[simp] theorem putRsp_started (c : RespCode) (s : State) : (putRsp c s).started = s.started := rfl
@[simp] theorem putRsp_schedule (c : RespCode) (s : State) : (putRsp c s).schedule = s.schedule := rfl

/-! ## setFsm -/

@[simp] theorem setFsm_fsm (f : Fsm) (s : State) : (setFsm f s).fsm = f := rfl
@[simp] theorem setFsm_role (f : Fsm) (s : State) : (setFsm f s).role = s.role := rfl
@[simp] theorem setFsm_ch (f : Fsm) (s : State) : (setFsm f s).ch = s.ch := rfl
@[simp] theorem setFsm_msg (f : Fsm) (s : State) : (setFsm f s).msg = s.msg := rfl
@[simp] theorem setFsm_unit (f : Fsm) (s : State) : (setFsm f s).unit = s.unit := rfl
@[simp] theorem setFsm_status (f : Fsm) (s : State) : (setFsm f s).status = s.status := rfl
@[simp] theorem setFsm_linkOpen (f : Fsm) (s : State) : (setFsm f s).linkOpen = s.linkOpen := rfl
@[simp] theorem setFsm_wire (f : Fsm) (s : State) : (setFsm f s).wire = s.wire := rfl
@[simp] theorem setFsm_respTrace (f : Fsm) (s : State) : (setFsm f s).respTrace = s.respTrace := rfl
@[simp] theorem setFsm_cmdOffer (f : Fsm) (s : State) : (setFsm f s).cmdOffer = s.cmdOffer := rfl
@[simp] theorem setFsm_txtOffer (f : Fsm) (s : State) : (setFsm f s).txtOffer = s.txtOffer := rfl
@[simp] theorem setFsm_accOffer (f : Fsm) (s : State) : (setFsm f s).accOffer = s.accOffer := rfl
@[simp] theorem setFsm_hostReady (f : Fsm) (s : State) : (setFsm f s).hostReady = s.hostReady := rfl
@[simp] theorem setFsm_transportReady (f : Fsm) (s : State) : (setFsm f s).transportReady = s.transportReady := rfl
@[simp] theorem setFsm_started (f : Fsm) (s : State) : (setFsm f s).started = s.started := rfl
@[simp] theorem setFsm_schedule (f : Fsm) (s : State) : (setFsm f s).schedule = s.schedule := rfl

/-! ## setCh -/

@[simp] theorem setCh_fsm (c : Channel) (s : State) : (setCh c s).fsm = s.fsm := rfl
@[simp] theorem setCh_role (c : Channel) (s : State) : (setCh c s).role = s.role := rfl
@[simp] theorem setCh_ch (c : Channel) (s : State) : (setCh c s).ch = c := rfl
@[simp] theorem setCh_msg (c : Channel) (s : State) : (setCh c s).msg = s.msg := rfl
@[simp] theorem setCh_unit (c : Channel) (s : State) : (setCh c s).unit = s.unit := rfl
@[simp] theorem setCh_status (c : Channel) (s : State) : (setCh c s).status = s.status := rfl
@[simp] theorem setCh_linkOpen (c : Channel) (s : State) : (setCh c s).linkOpen = s.linkOpen := rfl
@[simp] theorem setCh_wire (c : Channel) (s : State) : (setCh c s).wire = s.wire := rfl
@[simp] theorem setCh_respTrace (c : Channel) (s : State) : (setCh c s).respTrace = s.respTrace := rfl
@[simp] theorem setCh_cmdOffer (c : Channel) (s : State) : (setCh c s).cmdOffer = s.cmdOffer := rfl
@[simp] theorem setCh_txtOffer (c : Channel) (s : State) : (setCh c s).txtOffer = s.txtOffer := rfl
@[simp] theorem setCh_accOffer (c : Channel) (s : State) : (setCh c s).accOffer = s.accOffer := rfl
@[simp] theorem setCh_hostReady (c : Channel) (s : State) : (setCh c s).hostReady = s.hostReady := rfl
@[simp] theorem setCh_transportReady (c : Channel) (s : State) : (setCh c s).transportReady = s.transportReady := rfl
@[simp] theorem setCh_started (c : Channel) (s : State) : (setCh c s).started = s.started := rfl
@[simp] theorem setCh_schedule (c : Channel) (s : State) : (setCh c s).schedule = s.schedule := rfl

/-! ## setUnit -/

@[simp] theorem setUnit_fsm (u : CodeUnit) (s : State) : (setUnit u s).fsm = s.fsm := rfl
@[simp] theorem setUnit_role (u : CodeUnit) (s : State) : (setUnit u s).role = s.role := rfl
@[simp] theorem setUnit_ch (u : CodeUnit) (s : State) : (setUnit u s).ch = s.ch := rfl
@[simp] theorem setUnit_msg (u : CodeUnit) (s : State) : (setUnit u s).msg = s.msg := rfl
@[simp] theorem setUnit_unit (u : CodeUnit) (s : State) : (setUnit u s).unit = u := rfl
@[simp] theorem setUnit_status (u : CodeUnit) (s : State) : (setUnit u s).status = s.status := rfl
@[simp] theorem setUnit_linkOpen (u : CodeUnit) (s : State) : (setUnit u s).linkOpen = s.linkOpen := rfl
@[simp] theorem setUnit_wire (u : CodeUnit) (s : State) : (setUnit u s).wire = s.wire := rfl
@[simp] theorem setUnit_respTrace (u : CodeUnit) (s : State) : (setUnit u s).respTrace = s.respTrace := rfl
@[simp] theorem setUnit_cmdOffer (u : CodeUnit) (s : State) : (setUnit u s).cmdOffer = s.cmdOffer := rfl
@[simp] theorem setUnit_txtOffer (u : CodeUnit) (s : State) : (setUnit u s).txtOffer = s.txtOffer := rfl
@[simp] theorem setUnit_accOffer (u : CodeUnit) (s : State) : (setUnit u s).accOffer = s.accOffer := rfl
@[simp] theorem setUnit_hostReady (u : CodeUnit) (s : State) : (setUnit u s).hostReady = s.hostReady := rfl
@[simp] theorem setUnit_transportReady (u : CodeUnit) (s : State) : (setUnit u s).transportReady = s.transportReady := rfl
@[simp] theorem setUnit_started (u : CodeUnit) (s : State) : (setUnit u s).started = s.started := rfl
@[simp] theorem setUnit_schedule (u : CodeUnit) (s : State) : (setUnit u s).schedule = s.schedule := rfl

/-! ## finish -/

@[simp] theorem finish_fsm (c : RespCode) (f : Fsm) (s : State) : (finish c f s).fsm = f := rfl
@[simp] theorem finish_role (c : RespCode) (f : Fsm) (s : State) : (finish c f s).role = s.role := rfl
@[simp] theorem finish_ch (c : RespCode) (f : Fsm) (s : State) : (finish c f s).ch = s.ch := rfl
@[simp] theorem finish_msg (c : RespCode) (f : Fsm) (s : State) : (finish c f s).msg = s.msg := rfl
@[simp] theorem finish_unit (c : RespCode) (f : Fsm) (s : State) : (finish c f s).unit = s.unit := rfl
@[simp] theorem finish_status (c : RespCode) (f : Fsm) (s : State) : (finish c f s).status = c := rfl
@[simp] theorem finish_linkOpen (c : RespCode) (f : Fsm) (s : State) : (finish c f s).linkOpen = s.linkOpen := rfl
@[simp] theorem finish_wire (c : RespCode) (f : Fsm) (s : State) : (finish c f s).wire = s.wire := rfl
@[simp] theorem finish_respTrace (c : RespCode) (f : Fsm) (s : State) : (finish c f s).respTrace = s.respTrace := rfl
@[simp] theorem finish_cmdOffer (c : RespCode) (f : Fsm) (s : State) : (finish c f s).cmdOffer = s.cmdOffer := rfl
@[simp] theorem finish_txtOffer (c : RespCode) (f : Fsm) (s : State) : (finish c f s).txtOffer = s.txtOffer := rfl
@[simp] theorem finish_accOffer (c : RespCode) (f : Fsm) (s : State) : (finish c f s).accOffer = s.accOffer := rfl
@[simp] theorem finish_hostReady (c : RespCode) (f : Fsm) (s : State) : (finish c f s).hostReady = s.hostReady := rfl
@[simp] theorem finish_transportReady (c : RespCode) (f : Fsm) (s : State) : (finish c f s).transportReady = s.transportReady := rfl
@[simp] theorem finish_started (c : RespCode) (f : Fsm) (s : State) : (finish c f s).started = s.started := rfl
@[simp] theorem finish_schedule (c : RespCode) (f : Fsm) (s : State) : (finish c f s).schedule = s.schedule := rfl

/-! ## load -/

@[simp] theorem load_fsm (r : Role) (m : WireMsg) (s : State) : (load r m s).fsm = .issue := rfl
@[simp] theorem load_role (r : Role) (m : WireMsg) (s : State) : (load r m s).role = r := rfl
@[simp] theorem load_ch (r : Role) (m : WireMsg) (s : State) : (load r m s).ch = s.ch := rfl
@[simp] theorem load_msg (r : Role) (m : WireMsg) (s : State) : (load r m s).msg = m := rfl
@[simp] theorem load_unit (r : Role) (m : WireMsg) (s : State) : (load r m s).unit = s.unit := rfl
@[simp] theorem load_status (r : Role) (m : WireMsg) (s : State) : (load r m s).status = s.status := rfl
@[simp] theorem load_linkOpen (r : Role) (m : WireMsg) (s : State) : (load r m s).linkOpen = s.linkOpen := rfl
@[simp] theorem load_wire (r : Role) (m : WireMsg) (s : State) : (load r m s).wire = s.wire := rfl
@[simp] theorem load_respTrace (r : Role) (m : WireMsg) (s : State) : (load r m s).respTrace = s.respTrace := rfl
@[simp] theorem load_cmdOffer (r : Role) (m : WireMsg) (s : State) : (load r m s).cmdOffer = s.cmdOffer := rfl
@[simp] theorem load_txtOffer (r : Role) (m : WireMsg) (s : State) : (load r m s).txtOffer = s.txtOffer := rfl
@[simp] theorem load_accOffer (r : Role) (m : WireMsg) (s : State) : (load r m s).accOffer = s.accOffer := rfl
@[simp] theorem load_hostReady (r : Role) (m : WireMsg) (s : State) : (load r m s).hostReady = s.hostReady := rfl
@[simp] theorem load_transportReady (r : Role) (m : WireMsg) (s : State) : (load r m s).transportReady = s.transportReady := rfl
@[simp] theorem load_started (r : Role) (m : WireMsg) (s : State) : (load r m s).started = s.started := rfl
@[simp] theorem load_schedule (r : Role) (m : WireMsg) (s : State) : (load r m s).schedule = s.schedule := rfl

/-! ## popMove -/

@[simp] theorem popMove_fsm (s : State) : (popMove s).fsm = s.fsm := rfl
@[simp] theorem popMove_role (s : State) : (popMove s).role = s.role := rfl
@[simp] theorem popMove_ch (s : State) : (popMove s).ch = s.ch := rfl
@[simp] theorem popMove_msg (s : State) : (popMove s).msg = s.msg := rfl
@[simp] theorem popMove_unit (s : State) : (popMove s).unit = s.unit := rfl
@[simp] theorem popMove_status (s : State) : (popMove s).status = s.status := rfl
@[simp] theorem popMove_linkOpen (s : State) : (popMove s).linkOpen = s.linkOpen := rfl
@[simp] theorem popMove_wire (s : State) : (popMove s).wire = s.wire := rfl
@[simp] theorem popMove_respTrace (s : State) : (popMove s).respTrace = s.respTrace := rfl
@[simp] theorem popMove_cmdOffer (s : State) : (popMove s).cmdOffer = s.cmdOffer := rfl
@[simp] theorem popMove_txtOffer (s : State) : (popMove s).txtOffer = s.txtOffer := rfl
@[simp] theorem popMove_accOffer (s : State) : (popMove s).accOffer = s.accOffer := rfl
@[simp] theorem popMove_hostReady (s : State) : (popMove s).hostReady = s.hostReady := rfl
@[simp] theorem popMove_transportReady (s : State) : (popMove s).transportReady = s.transportReady := rfl
@[simp] theorem popMove_started (s : State) : (popMove s).started = s.started := rfl
@[simp] theorem popMove_schedule (s : State) : (popMove s).schedule = s.schedule.tail := rfl

/-! ## resetEvent -/

@[simp] theorem resetEvent_fsm (s : State) : (resetEvent s).fsm = .idle := rfl
@[simp] theorem resetEvent_role (s : State) : (resetEvent s).role = .single := rfl
@[simp] theorem resetEvent_ch (s : State) : (resetEvent s).ch = 0 := rfl
@[simp] theorem resetEvent_msg (s : State) : (resetEvent s).msg = 0 := rfl
@[simp] theorem resetEvent_unit (s : State) : (resetEvent s).unit = 0 := rfl
@[simp] theorem resetEvent_status (s : State) : (resetEvent s).status = statusOk := rfl
@[simp] theorem resetEvent_linkOpen (s : State) : (resetEvent s).linkOpen = s.linkOpen := rfl
@[simp] theorem resetEvent_wire (s : State) : (resetEvent s).wire = s.wire ++ [.reset] := rfl
@[simp] theorem resetEvent_respTrace (s : State) : (resetEvent s).respTrace = s.respTrace ++ [.reset] := rfl
@[simp] theorem resetEvent_cmdOffer (s : State) : (resetEvent s).cmdOffer = s.cmdOffer := rfl
@[simp] theorem resetEvent_txtOffer (s : State) : (resetEvent s).txtOffer = [] := rfl
@[simp] theorem resetEvent_accOffer (s : State) : (resetEvent s).accOffer = [] := rfl
@[simp] theorem resetEvent_hostReady (s : State) : (resetEvent s).hostReady = s.hostReady := rfl
@[simp] theorem resetEvent_transportReady (s : State) : (resetEvent s).transportReady = false := rfl
@[simp] theorem resetEvent_started (s : State) : (resetEvent s).started = true := rfl
@[simp] theorem resetEvent_schedule (s : State) : (resetEvent s).schedule = s.schedule := rfl

end Sys2Proof.Machine
end

