-- ==== Sys2Proof/Laws/Ops.lean ====
section
/-! SUPPORT. Laws/Ops: one lemma per shared operation that says all it does, and the exact conditions under which a
port transfer happens. -/
namespace Sys2Proof.Machine

/-- `fail(e)` writes `STATUS` and `FSM` and nothing else (R143). -/
theorem fail_eq (e : RespCode) (s : State) :
    fail e s = { s with status := e, fsm := if abortsFrame s.role then .drain else .resp } := rfl

/-- The response step appends `STATUS` to the response trace and goes to IDLE (R110). -/
theorem respond_eq (s : State) :
    respond s = { s with fsm := .idle, respTrace := s.respTrace ++ [.status s.status] } := rfl

/-- The issue step appends `MSG` to the wire trace and goes to WAIT (R106). -/
theorem issue_eq (s : State) : issue s = { s with fsm := .wait, wire := s.wire ++ [.msg s.msg] } := rfl

/-- The accepted-count step, by the count and the role (R107, R108, R143). -/
theorem takeCount_eq (c : AckCount) (s : State) :
    takeCount c s =
      if c = 3#32 then
        match s.role with
        | .single => { s with accOffer := s.accOffer.tail, status := statusOk, fsm := .resp }
        | .start => { s with accOffer := s.accOffer.tail, fsm := .getu }
        | .dlo => { s with accOffer := s.accOffer.tail, msg := highMsg s.ch s.unit, role := .dhi, fsm := .issue }
        | .dhi => { s with accOffer := s.accOffer.tail, fsm := .getu }
        | .endMark => { s with accOffer := s.accOffer.tail, status := statusOk, fsm := .resp }
      else { s with accOffer := s.accOffer.tail, status := statusTransportErr,
                    fsm := if abortsFrame s.role then .drain else .resp } := by
  by_cases h : c = 3#32
  · subst h
    cases hr : s.role <;> simp [takeCount, countOk, Config.acceptedBytes, continueRole, hr, takeAcc, finish, setFsm, load]
  · have hc : countOk c = false := by simpa [countOk, Config.acceptedBytes] using h
    rw [takeCount, hc, if_neg h]
    rfl

/-- A command word is taken in IDLE. -/
theorem onCmd_idle {s : State} (h : s.fsm = .idle) (f : State → State) : onCmd f s = f (takeCmd s) := by
  simp [onCmd, cmdReady, h]

/-- A command word waits in every other state (R41). -/
theorem onCmd_busy {s : State} (h : s.fsm ≠ .idle) (f : State → State) : onCmd f s = s := by
  simp [onCmd, cmdReady, h]

/-- A message is put when it is the one the framer offers and the transport takes it (R106). -/
theorem onMsg_put {m : WireMsg} {s : State} (hf : s.fsm = .issue) (hl : s.linkOpen = true)
    (ht : s.transportReady = true) (hm : s.msg = m) : onMsg m s = issue s := by
  simp [onMsg, msgValid, hf, hl, ht, hm]

/-- The range check of a FRAME command looks at the channel alone (R95, R120). -/
theorem rangeOk_frame (ch : Byte) : rangeOk ch 0#8 0#8 = decide (ch ≤ 15#8) := by
  have h0 : decide (0#8 ≤ Config.maxData) = true := by decide
  rw [rangeOk, h0, Bool.and_true, Bool.and_true]

/-- A move of another agent leaves the framer's registers alone unless it is a reset. -/
theorem applyMove_registers {m : Move} (h : m ≠ .assertReset) (s : State) :
    (applyMove m s).fsm = s.fsm ∧ (applyMove m s).role = s.role ∧ (applyMove m s).ch = s.ch ∧
    (applyMove m s).msg = s.msg ∧ (applyMove m s).unit = s.unit ∧ (applyMove m s).status = s.status ∧
    (applyMove m s).wire = s.wire ∧ (applyMove m s).respTrace = s.respTrace := by
  cases m <;> first | exact absurd rfl h | exact ⟨rfl, rfl, rfl, rfl, rfl, rfl, rfl, rfl⟩

end Sys2Proof.Machine
end

