-- ==== Sys2Proof/Laws/Framer.lean ====
section
/-! SUPPORT. Laws/Framer: what a step can do, said once. Every invariant follows from `step_cases` and
`framerStep_cases`. -/
namespace Sys2Proof.Machine

/-- The acceptance of an offered command word is one of these three (R63, R100). -/
theorem exec_decodeCmd_idle {s : State} (h : s.fsm = .idle) (w : CmdWord) :
    (∃ n ch a b, (n = 0x9#4 ∨ n = 0x8#4 ∨ n = 0xB#4) ∧
      exec (decodeCmd w) s = .next (acceptSingle n ch a b (takeCmd s))) ∨
    (∃ ch, exec (decodeCmd w) s = .next (acceptFrame ch (takeCmd s))) ∨
    exec (decodeCmd w) s = .next (acceptIllegal (takeCmd s)) := by
  have single : ∀ (n : Nibble) (ch a b : Byte), (n = 0x9#4 ∨ n = 0x8#4 ∨ n = 0xB#4) →
      ∃ n' ch' a' b', (n' = 0x9#4 ∨ n' = 0x8#4 ∨ n' = 0xB#4) ∧
        Host.Outcome.next (φ := Fault) (ρ := Refusal) (onCmd (acceptSingle n ch a b) s)
          = .next (acceptSingle n' ch' a' b' (takeCmd s)) :=
    fun n ch a b hn => ⟨n, ch, a, b, hn, by rw [onCmd_idle h]⟩
  have ill : exec (.illegal w) s = .next (acceptIllegal (takeCmd s)) := by
    simp only [exec, execIllegal, onCmd_idle h]
  unfold decodeCmd
  simp only
  split
  · exact .inr (.inr ill)
  split
  · split
    · exact .inr (.inr ill)
    · rename_i k _
      cases k
      · exact .inl (single _ _ _ _ (.inl rfl))
      · exact .inl (single _ _ _ _ (.inr (.inl rfl)))
      · exact .inl (single _ _ _ _ (.inr (.inr rfl)))
  split
  · exact .inr (.inr ill)
  split
  · exact .inl (single _ _ _ _ (.inl rfl))
  split
  · exact .inl (single _ _ _ _ (.inr (.inl rfl)))
  split
  · exact .inl (single _ _ _ _ (.inr (.inr rfl)))
  split
  · split
    · exact .inr (.inr ill)
    · exact .inr (.inl ⟨cmdCh w, by simp only [exec, execFrame, onCmd_idle h]⟩)
  · exact .inr (.inr ill)

/-- The decoder of MSG accepts exactly the words of the wire format, and the row it reads is put by the issue step
when both sides are willing (R67, R68, R106). -/
theorem exec_decodeWire {s : State} {i : Instr} (hf : s.fsm = .issue) (hl : s.linkOpen = true)
    (ht : s.transportReady = true) (hd : decodeWire s.msg = .ok i) :
    wireMsgOk s.msg = true ∧ exec i s = .next (issue s) := by
  rw [decodeWire_eq] at hd
  by_cases htop : wireTopBitsClear s.msg = true
  · have back := wireWord_fields s.msg htop
    simp only [htop, Bool.true_eq_false, if_false] at hd
    split at hd
    · cases hd
      rename_i h9
      rw [h9, ← pack_setWidth] at back
      exact ⟨by simp [wireMsgOk, htop, h9], by
        simp only [exec, execWireNoteOn, onMsg_put hf hl ht back.symm]⟩
    split at hd
    · cases hd
      rename_i h8
      rw [h8, ← pack_setWidth] at back
      exact ⟨by simp [wireMsgOk, htop, h8], by
        simp only [exec, execWireNoteOff, onMsg_put hf hl ht back.symm]⟩
    split at hd
    · cases hd
      rename_i hB
      rw [hB, ← pack_setWidth] at back
      exact ⟨by simp [wireMsgOk, htop, hB], by
        simp only [exec, execWireControlChange, onMsg_put hf hl ht back.symm]⟩
    · cases hd
  · simp [htop] at hd

/-! ## The framer's step in each state -/

/-- In IDLE the framer runs the row of the word the host offers (R100). -/
theorem framerStep_idle {s : State} {w : CmdWord} {rest : List CmdWord} (h : s.fsm = .idle)
    (hq : s.cmdOffer = w :: rest) : framerStep s = exec (decodeCmd w) s := by
  simp only [framerStep, portWord, h, hq, List.head?_cons, Option.map_some, decode]

/-- In GETU and DRAIN the framer runs the row of the next text item (R122, R126). -/
theorem framerStep_text {s : State} {x : TextItem} {rest : List TextItem} (h : s.fsm = .getu ∨ s.fsm = .drain)
    (hq : s.txtOffer = x :: rest) : framerStep s = exec (decodeTxt x) s := by
  rcases h with h | h <;>
    simp only [framerStep, portWord, h, hq, List.head?_cons, Option.map_some, decode]

/-- In ISSUE with the link closed the framer fails the message (R105). -/
theorem framerStep_linkClosed {s : State} (h : s.fsm = .issue) (hl : s.linkOpen = false) :
    framerStep s = .next (fail statusConnErr s) := by
  simp only [framerStep, portWord, ownStep, h, hl, Bool.false_and, Bool.false_eq_true, if_false]

/-- In ISSUE with the link open the framer waits for the transport (R109). -/
theorem framerStep_issueWaits {s : State} (h : s.fsm = .issue) (hl : s.linkOpen = true)
    (ht : s.transportReady = false) : framerStep s = .next s := by
  simp only [framerStep, portWord, ownStep, h, hl, ht, Bool.and_false, Bool.false_eq_true, if_false, if_true]

/-- In ISSUE with both sides willing the framer runs the row of the message (R106). -/
theorem framerStep_issue {s : State} {i : Instr} (h : s.fsm = .issue) (hl : s.linkOpen = true)
    (ht : s.transportReady = true) (hd : decodeWire s.msg = .ok i) : framerStep s = exec i s := by
  simp only [framerStep, portWord, h, hl, ht, Bool.and_self, if_true, decode, hd]

/-- In WAIT the framer takes the count the transport offers (R107). -/
theorem framerStep_count {s : State} {c : AckCount} {rest : List AckCount} (h : s.fsm = .wait)
    (hq : s.accOffer = c :: rest) : framerStep s = .next (takeCount c s) := by
  simp only [framerStep, portWord, ownStep, h, hq]

/-- In RESP the framer puts the response when the host takes it (R110). -/
theorem framerStep_respond {s : State} (h : s.fsm = .resp) (hr : s.hostReady = true) :
    framerStep s = .next (respond s) := by
  simp only [framerStep, portWord, ownStep, h, hr, if_true]

/-- A framer move of a started framer is the framer's step. -/
theorem step_framer {s : State} (hs : s.started = true) (hm : nextMove s = .framer) :
    step s = framerStep (popMove s) := by
  simp only [step, hm, hs, if_true]

/-- With an empty schedule, nothing leaves it. -/
theorem popMove_nil {s : State} (h : s.schedule = []) : popMove s = s := by
  cases s
  simp only [popMove] at *
  rw [h]
  rfl

/-- With an empty schedule, a started framer's step is its own. -/
theorem step_idleSchedule {s : State} (hs : s.started = true) (h : s.schedule = []) :
    step s = framerStep s := by
  rw [step_framer hs (by simp only [nextMove, h]), popMove_nil h]

/-- Everything a framer step can do when it answers a next state (R100 to R110, R120 to R126). -/
inductive FramerEvent (s : State) : State → Prop where
  /-- The framer waits for a partner (R109, R167). -/
  | waits : FramerEvent s s
  /-- A single command is accepted or rejected for its range. -/
  | single (w : CmdWord) (rest : List CmdWord) (n : Nibble) (ch a b : Byte) : s.fsm = .idle →
      s.cmdOffer = w :: rest → (n = 0x9#4 ∨ n = 0x8#4 ∨ n = 0xB#4) →
      exec (decodeCmd w) s = .next (acceptSingle n ch a b (takeCmd s)) →
      FramerEvent s (acceptSingle n ch a b (takeCmd s))
  /-- A FRAME command is accepted or rejected for its range. -/
  | frame (w : CmdWord) (rest : List CmdWord) (ch : Byte) : s.fsm = .idle → s.cmdOffer = w :: rest →
      exec (decodeCmd w) s = .next (acceptFrame ch (takeCmd s)) → FramerEvent s (acceptFrame ch (takeCmd s))
  /-- An illegal word is rejected. -/
  | illegal (w : CmdWord) (rest : List CmdWord) : s.fsm = .idle → s.cmdOffer = w :: rest →
      exec (decodeCmd w) s = .next (acceptIllegal (takeCmd s)) → FramerEvent s (acceptIllegal (takeCmd s))
  /-- The link check fails the message that is due. -/
  | linkClosed : s.fsm = .issue → s.linkOpen = false → FramerEvent s (fail statusConnErr s)
  /-- The message that is due is put. -/
  | issued : s.fsm = .issue → s.linkOpen = true → s.transportReady = true → wireMsgOk s.msg = true →
      FramerEvent s (issue s)
  /-- The count of the message in flight is taken. -/
  | counted (c : AckCount) (rest : List AckCount) : s.fsm = .wait → s.accOffer = c :: rest →
      FramerEvent s (takeCount c s)
  /-- A code unit is taken inside a frame. -/
  | unit (t : TextItem) (rest : List TextItem) : s.fsm = .getu → s.txtOffer = t :: rest → txtEnd t = false →
      FramerEvent s (load .dlo (lowMsg s.ch (txtUnit t)) (setUnit (txtUnit t) (takeTxt s)))
  /-- END is taken inside a frame. -/
  | textEnd (t : TextItem) (rest : List TextItem) : s.fsm = .getu → s.txtOffer = t :: rest → txtEnd t = true →
      FramerEvent s (load .endMark (endMarker s.ch) (takeTxt s))
  /-- A code unit is discarded. -/
  | drained (t : TextItem) (rest : List TextItem) : s.fsm = .drain → s.txtOffer = t :: rest → txtEnd t = false →
      FramerEvent s (takeTxt s)
  /-- END is taken while draining. -/
  | drainEnd (t : TextItem) (rest : List TextItem) : s.fsm = .drain → s.txtOffer = t :: rest → txtEnd t = true →
      FramerEvent s (setFsm .resp (takeTxt s))
  /-- The response is put. -/
  | responded : s.fsm = .resp → s.hostReady = true → FramerEvent s (respond s)

/-- A framer step that answers a next state is one of the framer's events. -/
theorem framerStep_cases {s t : State} (h : framerStep s = .next t) : FramerEvent s t := by
  cases hf : s.fsm with
  | idle =>
    cases hq : s.cmdOffer with
    | nil =>
      simp only [framerStep, portWord, ownStep, hf, hq, List.head?_nil, Option.map_none] at h
      cases h; exact .waits
    | cons w rest =>
      simp only [framerStep, portWord, hf, hq, List.head?_cons, Option.map_some, decode] at h
      rcases exec_decodeCmd_idle hf w with ⟨n, ch, a, b, hn, he⟩ | ⟨ch, he⟩ | he
      · rw [he] at h; cases h; exact .single w rest n ch a b hf hq hn he
      · rw [he] at h; cases h; exact .frame w rest ch hf hq he
      · rw [he] at h; cases h; exact .illegal w rest hf hq he
  | issue =>
    cases hl : s.linkOpen with
    | false =>
      simp only [framerStep, portWord, ownStep, hf, hl, Bool.false_and, Bool.false_eq_true, if_false] at h
      cases h; exact .linkClosed hf hl
    | true =>
      cases ht : s.transportReady with
      | false =>
        simp only [framerStep, portWord, ownStep, hf, hl, ht, Bool.and_false, Bool.false_eq_true, if_false,
          if_true] at h
        cases h; exact .waits
      | true =>
        simp only [framerStep, portWord, hf, hl, ht, Bool.and_self, if_true, decode] at h
        split at h
        · rename_i i hd
          obtain ⟨hok, he⟩ := exec_decodeWire hf hl ht hd
          rw [he] at h; cases h; exact .issued hf hl ht hok
        · cases h
  | wait =>
    cases hq : s.accOffer with
    | nil => simp only [framerStep, portWord, ownStep, hf, hq] at h; cases h; exact .waits
    | cons c rest =>
      simp only [framerStep, portWord, ownStep, hf, hq] at h; cases h; exact .counted c rest hf hq
  | getu =>
    cases hq : s.txtOffer with
    | nil =>
      simp only [framerStep, portWord, ownStep, hf, hq, List.head?_nil, Option.map_none] at h
      cases h; exact .waits
    | cons x rest =>
      simp only [framerStep, portWord, hf, hq, List.head?_cons, Option.map_some, decode, decodeTxt] at h
      cases he : txtEnd x with
      | true =>
        simp only [he, if_true, exec, execEndItem, onTxt, hf] at h; cases h
        exact .textEnd x rest hf hq he
      | false =>
        simp only [he, Bool.false_eq_true, if_false, exec, execUnitItem, onTxt, hf] at h; cases h
        exact .unit x rest hf hq he
  | drain =>
    cases hq : s.txtOffer with
    | nil =>
      simp only [framerStep, portWord, ownStep, hf, hq, List.head?_nil, Option.map_none] at h
      cases h; exact .waits
    | cons x rest =>
      simp only [framerStep, portWord, hf, hq, List.head?_cons, Option.map_some, decode, decodeTxt] at h
      cases he : txtEnd x with
      | true =>
        simp only [he, if_true, exec, execEndItem, onTxt, hf] at h; cases h
        exact .drainEnd x rest hf hq he
      | false =>
        simp only [he, Bool.false_eq_true, if_false, exec, execUnitItem, onTxt, hf] at h; cases h
        exact .drained x rest hf hq he
  | resp =>
    cases hr : s.hostReady with
    | false =>
      simp only [framerStep, portWord, ownStep, hf, hr, Bool.false_eq_true, if_false] at h
      cases h; exact .waits
    | true =>
      simp only [framerStep, portWord, ownStep, hf, hr, if_true] at h
      cases h; exact .responded hf hr

/-- Everything a step can do when it answers a next state: a framer event, or a move of another agent. -/
theorem step_cases {s t : State} (h : step s = .next t) :
    (nextMove s = .framer ∧ s.started = true ∧ FramerEvent (popMove s) t) ∨
    (nextMove s ≠ .framer ∧ t = applyMove (nextMove s) (popMove s)) := by
  unfold step at h
  split at h
  · rename_i hm
    split at h
    · rename_i hs
      exact .inl ⟨hm, hs, framerStep_cases h⟩
    · cases h
  · rename_i hne
    cases h
    exact .inr ⟨hne, rfl⟩

/-- A run of `k + 1` steps of any machine, by its first step. -/
theorem machine_run_succ (M : Host.Core) (k : Nat) (s : M.State) :
    M.run (k + 1) s =
      match M.step s with
      | .next u => M.run k u
      | .fault r => .fault r
      | .refused r => .refused r := rfl

/-- A run of `k + 1` steps begins with one step. -/
theorem run_step {k : Nat} {s u : State} (h : step s = .next u) :
    Host.Core.run core (k + 1) s = Host.Core.run core k u := by
  have hc : core.step s = .next u := h
  rw [machine_run_succ core k s, hc]

/-- A run of `k + 1` steps that answers a state goes through the state after one step. -/
theorem run_succ {k : Nat} {s t : State} (h : Host.Core.run core (k + 1) s = .next t) :
    ∃ u, step s = .next u ∧ Host.Core.run core k u = .next t := by
  have h' := (machine_run_succ core k s).symm.trans h
  cases hs : step s with
  | next u => exact ⟨u, rfl, by rwa [run_step hs] at h⟩
  | fault r =>
    have hc : core.step s = .fault r := hs
    rw [hc] at h'
    cases h'
  | refused r =>
    have hc : core.step s = .refused r := hs
    rw [hc] at h'
    cases h'

/-- The packaged induction: a property of the state that every step keeps holds after every run. -/
theorem run_keeps {P : State → Prop} (hstep : ∀ s t, P s → step s = .next t → P t) :
    ∀ k s t, P s → Host.Core.run core k s = .next t → P t
  | 0, s, t, hs, h => by
    have : (Host.Outcome.next s : Host.Outcome State Fault Refusal) = .next t := h
    cases this
    exact hs
  | k + 1, s, t, hs, h => by
    obtain ⟨u, hu, hr⟩ := run_succ h
    exact run_keeps hstep k u t (hstep s u hs hu) hr

/-! ## What arrives during a run (R42, R44) -/

@[simp] theorem withText_fsm (x : List TextItem) (s : State) : (withText x s).fsm = s.fsm := rfl
@[simp] theorem withText_role (x : List TextItem) (s : State) : (withText x s).role = s.role := rfl
@[simp] theorem withText_ch (x : List TextItem) (s : State) : (withText x s).ch = s.ch := rfl
@[simp] theorem withText_msg (x : List TextItem) (s : State) : (withText x s).msg = s.msg := rfl
@[simp] theorem withText_unit (x : List TextItem) (s : State) : (withText x s).unit = s.unit := rfl
@[simp] theorem withText_txtOffer (x : List TextItem) (s : State) :
    (withText x s).txtOffer = s.txtOffer ++ x := rfl
@[simp] theorem textWithin_zero (s : State) : textWithin 0 s = [] := rfl
@[simp] theorem countsWithin_zero (s : State) : countsWithin 0 s = [] := rfl

/-- A framer event leaves the schedule alone. -/
theorem FramerEvent.schedule_eq {s t : State} (e : FramerEvent s t) : t.schedule = s.schedule := by
  cases e <;> try simp [acceptSingle, acceptFrame, acceptIllegal, fail, issue, takeCount, continueRole, respond]
  · split <;> simp
  · split <;> simp
  · split <;> try simp
    split <;> simp

/-- A step takes its move off the schedule. -/
theorem step_schedule {s t : State} (h : step s = .next t) : t.schedule = s.schedule.tail := by
  rcases step_cases h with ⟨_, _, e⟩ | ⟨_, rfl⟩
  · exact e.schedule_eq
  · cases nextMove s <;> rfl

/-- What arrives in `k + 1` steps is what the first move brings and what arrives in the `k` steps after it. -/
theorem step_within {s t : State} (h : step s = .next t) (k : Nat) :
    textWithin (k + 1) s = moveText (nextMove s) ++ textWithin k t ∧
    countsWithin (k + 1) s = moveCount (nextMove s) ++ countsWithin k t := by
  unfold textWithin countsWithin nextMove
  rw [step_schedule h]
  cases s.schedule <;> simp [moveText, moveCount]

/-- The packaged induction for a property that also speaks of the text and the counts that have arrived. -/
theorem run_keeps_within {P : List TextItem → List AckCount → State → Prop}
    (hstep : ∀ x c s t, P x c s → step s = .next t →
      P (x ++ moveText (nextMove s)) (c ++ moveCount (nextMove s)) t) :
    ∀ k x c s t, P x c s → Host.Core.run core k s = .next t →
      P (x ++ textWithin k s) (c ++ countsWithin k s) t
  | 0, x, c, s, t, hs, h => by
    have : (Host.Outcome.next s : Host.Outcome State Fault Refusal) = .next t := h
    cases this
    simpa using hs
  | k + 1, x, c, s, t, hs, h => by
    obtain ⟨u, hu, hr⟩ := run_succ h
    have := run_keeps_within hstep k _ _ u t (hstep x c s u hs hu) hr
    rw [(step_within hu k).1, (step_within hu k).2]
    simpa using this

end Sys2Proof.Machine
end

