-- ==== Sys2Proof/Laws/PerInstr.lean ====
section
/-! SUPPORT. Laws/PerInstr: the family RowPattern, one lemma per constructor of `Instr`: the word the encoder writes
matches its row's mask and match of spec/opcode_table.json, and the word of an illegal instruction matches no
command row. -/
namespace Sys2Proof.Laws.RowPattern

/-- Mask and match of the seven CMD32 rows of spec/opcode_table.json, in the table's order. -/
def commandRows : List (BitVec 32 × BitVec 32) :=
  [(0xFF000000#32, 0x10000000#32), (0xFF000000#32, 0x14000000#32), (0xFF000000#32, 0x18000000#32),
   (0xFF000000#32, 0x20000000#32), (0xFF000000#32, 0x30000000#32), (0xFF000000#32, 0x40000000#32),
   (0xFF00FFFF#32, 0x50000000#32)]

/-- A word of CMD matches the mask and the match of a row. -/
def cmdFits (mask value : BitVec 32) : PortWord → Prop
  | .cmd w => w &&& mask = value
  | .txt _ => False
  | .msg _ => False

/-- An item of TXT matches the mask and the match of a row. -/
def txtFits (mask value : BitVec 17) : PortWord → Prop
  | .cmd _ => False
  | .txt t => t &&& mask = value
  | .msg _ => False

/-- A message of MSG matches the mask and the match of a row. -/
def msgFits (mask value : BitVec 24) : PortWord → Prop
  | .cmd _ => False
  | .txt _ => False
  | .msg m => m &&& mask = value

/-- What the opcode table says of the word of `i`. -/
def rowHolds (i : Instr) : Prop :=
  match i with
  | .rawNoteOn _ _ _ => cmdFits 0xFF000000#32 0x10000000#32 (encode i)
  | .rawNoteOff _ _ _ => cmdFits 0xFF000000#32 0x14000000#32 (encode i)
  | .rawControlChange _ _ _ => cmdFits 0xFF000000#32 0x18000000#32 (encode i)
  | .noteOn _ _ _ => cmdFits 0xFF000000#32 0x20000000#32 (encode i)
  | .noteOff _ _ _ => cmdFits 0xFF000000#32 0x30000000#32 (encode i)
  | .cc _ _ _ => cmdFits 0xFF000000#32 0x40000000#32 (encode i)
  | .frame _ => cmdFits 0xFF00FFFF#32 0x50000000#32 (encode i)
  | .illegal _ => ∀ row ∈ commandRows, ¬ cmdFits row.1 row.2 (encode i)
  | .unitItem _ => txtFits 0x10000#17 0x00000#17 (encode i)
  | .endItem _ => txtFits 0x10000#17 0x10000#17 (encode i)
  | .wireNoteOn _ _ _ => msgFits 0xF08080#24 0x900000#24 (encode i)
  | .wireNoteOff _ _ _ => msgFits 0xF08080#24 0x800000#24 (encode i)
  | .wireControlChange _ _ _ => msgFits 0xF08080#24 0xB00000#24 (encode i)

/-- The family's statement about one instruction. -/
def Statement (i : Instr) : Prop := i.WellFormed → rowHolds i

/-- The mask of a command row keeps the opcode, kind and reserved fields and clears the operands. -/
theorem cmdWord_mask (op : BitVec 4) (kind : BitVec 2) (ch a b : Byte) :
    cmdWord op kind ch a b &&& 0xFF000000#32 = cmdWord op kind 0#8 0#8 0#8 := by
  apply BitVec.eq_of_getLsbD_eq
  intro i hi
  simp only [cmdWord, BitVec.getLsbD_and, BitVec.getLsbD_append]
  interval_cases i <;> simp

/-- The mask of the FRAME row clears the channel alone. -/
theorem cmdWord_frameMask (op : BitVec 4) (kind : BitVec 2) (ch a b : Byte) :
    cmdWord op kind ch a b &&& 0xFF00FFFF#32 = cmdWord op kind 0#8 a b := by
  apply BitVec.eq_of_getLsbD_eq
  intro i hi
  simp only [cmdWord, BitVec.getLsbD_and, BitVec.getLsbD_append]
  interval_cases i <;> simp

/-- The mask of a text-item row keeps the end bit. -/
theorem txtItem_mask (e : BitVec 1) (u : CodeUnit) : txtItem e u &&& 0x10000#17 = txtItem e 0#16 := by
  apply BitVec.eq_of_getLsbD_eq
  intro i hi
  simp only [txtItem, BitVec.getLsbD_and, BitVec.getLsbD_append]
  interval_cases i <;> simp

/-- The mask of a wire-message row keeps the nibble and the two zero bits. -/
theorem wireWord_mask (n : Nibble) (c : Channel) (a b : Data7) :
    wireWord n c a b &&& 0xF08080#24 = wireWord n 0#4 0#7 0#7 := by
  apply BitVec.eq_of_getLsbD_eq
  intro i hi
  simp only [wireWord, BitVec.getLsbD_and, BitVec.getLsbD_append]
  interval_cases i <;> simp

/-- The fields above the operands depend on the top byte alone. -/
theorem cmdFields_top (w : CmdWord) :
    Machine.cmdOp w = Machine.cmdOp (w &&& 0xFF000000#32) ∧
    Machine.cmdKind w = Machine.cmdKind (w &&& 0xFF000000#32) ∧
    Machine.cmdRsv w = Machine.cmdRsv (w &&& 0xFF000000#32) := by
  refine ⟨?_, ?_, ?_⟩ <;> apply BitVec.eq_of_getLsbD_eq <;> intro i hi <;>
    simp only [Machine.cmdOp, Machine.cmdKind, Machine.cmdRsv, BitVec.getLsbD_extractLsb',
      BitVec.getLsbD_and] <;> interval_cases i <;> simp

/-- The fields that the FRAME row fixes depend on the bits of its mask alone. -/
theorem cmdFields_frame (w : CmdWord) :
    Machine.cmdOp w = Machine.cmdOp (w &&& 0xFF00FFFF#32) ∧
    Machine.cmdKind w = Machine.cmdKind (w &&& 0xFF00FFFF#32) ∧
    Machine.cmdRsv w = Machine.cmdRsv (w &&& 0xFF00FFFF#32) ∧
    Machine.cmdA w = Machine.cmdA (w &&& 0xFF00FFFF#32) ∧
    Machine.cmdB w = Machine.cmdB (w &&& 0xFF00FFFF#32) := by
  refine ⟨?_, ?_, ?_, ?_, ?_⟩ <;> apply BitVec.eq_of_getLsbD_eq <;> intro i hi <;>
    simp only [Machine.cmdOp, Machine.cmdKind, Machine.cmdRsv, Machine.cmdA, Machine.cmdB,
      BitVec.getLsbD_extractLsb', BitVec.getLsbD_and] <;> interval_cases i <;> simp

/-- A word that matches one of the first six rows is not illegal. -/
theorem not_illegal_of_top {w v : CmdWord} (h : w &&& 0xFF000000#32 = v)
    (hv : Machine.cmdOp v ≠ 0#4 ∧ ¬ 6#4 ≤ Machine.cmdOp v ∧ Machine.cmdOp v ≠ 5#4 ∧ Machine.cmdRsv v = 0#2 ∧
      ¬ (Machine.cmdOp v = 1#4 ∧ Machine.cmdKind v = 3#2) ∧
      ¬ (Machine.cmdOp v ≠ 1#4 ∧ Machine.cmdKind v ≠ 0#2)) : illegalWord w = false := by
  obtain ⟨h1, h2, h3⟩ := cmdFields_top w
  rw [h] at h1 h2 h3
  obtain ⟨v0, v6, v5, vr, v3, vk⟩ := hv
  simp only [illegalWord, h1, h2, h3]
  simp only [Bool.or_eq_false_iff, Bool.and_eq_false_iff, beq_eq_false_iff_ne, bne_eq_false_iff_eq,
    decide_eq_false_iff_not]
  tauto

theorem rawNoteOn (ch a b : Byte) : Statement (.rawNoteOn ch a b) := fun _ => cmdWord_mask _ _ ch a b

theorem rawNoteOff (ch a b : Byte) : Statement (.rawNoteOff ch a b) := fun _ => cmdWord_mask _ _ ch a b

theorem rawControlChange (ch a b : Byte) : Statement (.rawControlChange ch a b) :=
  fun _ => cmdWord_mask _ _ ch a b

theorem noteOn (ch a b : Byte) : Statement (.noteOn ch a b) := fun _ => cmdWord_mask _ _ ch a b

theorem noteOff (ch a b : Byte) : Statement (.noteOff ch a b) := fun _ => cmdWord_mask _ _ ch a b

theorem cc (ch a b : Byte) : Statement (.cc ch a b) := fun _ => cmdWord_mask _ _ ch a b

theorem frame (ch : Byte) : Statement (.frame ch) := fun _ => cmdWord_frameMask _ _ ch _ _

theorem illegal (w : CmdWord) : Statement (.illegal w) := by
  intro h row hrow hfit
  change illegalWord w = true at h
  change w &&& row.1 = row.2 at hfit
  have clash : ∀ {b : Bool}, b = true → b = false → False := by decide
  simp only [commandRows, List.mem_cons, List.not_mem_nil, or_false] at hrow
  rcases hrow with rfl | rfl | rfl | rfl | rfl | rfl | rfl
  · exact clash h (not_illegal_of_top hfit (by decide))
  · exact clash h (not_illegal_of_top hfit (by decide))
  · exact clash h (not_illegal_of_top hfit (by decide))
  · exact clash h (not_illegal_of_top hfit (by decide))
  · exact clash h (not_illegal_of_top hfit (by decide))
  · exact clash h (not_illegal_of_top hfit (by decide))
  · obtain ⟨h1, h2, h3, h4, h5⟩ := cmdFields_frame w
    simp only at hfit
    rw [hfit] at h1 h2 h3 h4 h5
    have : illegalWord w = false := by
      simp only [illegalWord, h1, h2, h3, h4, h5]
      decide
    exact clash h this

theorem unitItem (u : CodeUnit) : Statement (.unitItem u) := fun _ => txtItem_mask _ u

theorem endItem (x : CodeUnit) : Statement (.endItem x) := fun _ => txtItem_mask _ x

theorem wireNoteOn (ch : Channel) (a b : Data7) : Statement (.wireNoteOn ch a b) :=
  fun _ => wireWord_mask _ ch a b

theorem wireNoteOff (ch : Channel) (a b : Data7) : Statement (.wireNoteOff ch a b) :=
  fun _ => wireWord_mask _ ch a b

theorem wireControlChange (ch : Channel) (a b : Data7) : Statement (.wireControlChange ch a b) :=
  fun _ => wireWord_mask _ ch a b

end Sys2Proof.Laws.RowPattern
end

