-- ==== Sys2Proof/Tests/Slice0.lean ====
section
/-! SUPPORT. Tests/Slice0: tests on fixed values, whose expected results are those of spec/95_test_vectors.md or are worked
out by hand from the encodings of spec/30_encoding.md; and, for each obligation that has hypotheses, a theorem `witness_<…>`
that shows a concrete state and operands that meet all of them together. -/
namespace Sys2Proof.Tests
open Sys2Proof Sys2Proof.Machine

/-- A framer in state `f` and role `r`, with the link open and the transport and the host willing. -/
def framer (f : Fsm) (r : Role) : State :=
  { State.reset with fsm := f, role := r, linkOpen := true, transportReady := true, hostReady := true }

/-- The registers a step leaves: FSM, ROLE, CH, MSG and STATUS. -/
def regs (o : Host.Outcome State Fault Refusal) : Option (Fsm × Role × Channel × WireMsg × RespCode) :=
  match o with
  | .next t => some (t.fsm, t.role, t.ch, t.msg, t.status)
  | .fault _ => none
  | .refused _ => none

/-- The two traces a step leaves. -/
def traces (o : Host.Outcome State Fault Refusal) : Option (List WireEntry × List RespEntry) :=
  match o with
  | .next t => some (runResult t)
  | .fault _ => none
  | .refused _ => none

/-! ## WellFormed: each check of R64 refuses a legal word as an illegal one, and accepts an illegal one -/

theorem test_wf_refuses_raw_kind0 : (Instr.illegal 0x10000000).wellFormed = false := by decide
theorem test_wf_refuses_raw_kind1 : (Instr.illegal 0x14000000).wellFormed = false := by decide
theorem test_wf_refuses_raw_kind2 : (Instr.illegal 0x1805017F).wellFormed = false := by decide
theorem test_wf_refuses_noteOn : (Instr.illegal 0x20030000).wellFormed = false := by decide
theorem test_wf_refuses_noteOff : (Instr.illegal 0x300F0000).wellFormed = false := by decide
theorem test_wf_refuses_cc_out_of_range : (Instr.illegal 0x40100000).wellFormed = false := by decide
theorem test_wf_refuses_frame : (Instr.illegal 0x50FF0000).wellFormed = false := by decide
theorem test_wf_accepts_op0 : (Instr.illegal 0x00000000).wellFormed = true := by decide
theorem test_wf_accepts_op6 : (Instr.illegal 0x60000000).wellFormed = true := by decide
theorem test_wf_accepts_opF : (Instr.illegal 0xF0000000).wellFormed = true := by decide
theorem test_wf_accepts_rsv : (Instr.illegal 0x11000000).wellFormed = true := by decide
theorem test_wf_accepts_raw_kind3 : (Instr.illegal 0x1C000000).wellFormed = true := by decide
theorem test_wf_accepts_kind_outside_raw : (Instr.illegal 0x24030000).wellFormed = true := by decide
theorem test_wf_accepts_frame_a : (Instr.illegal 0x50000100).wellFormed = true := by decide
theorem test_wf_accepts_frame_b : (Instr.illegal 0x50000001).wellFormed = true := by decide

/-! ## Decoding: words written out bit by bit from R60, R65 and R67, one for every constructor -/

theorem test_decode_rawNoteOn :
    decodeCmd 0b0001_00_00_10000001_01000000_00000001#32 = .rawNoteOn 0x81 0x40 0x01 := by decide
theorem test_decode_rawNoteOff :
    decodeCmd 0b0001_01_00_00000001_10000000_01111110#32 = .rawNoteOff 0x01 0x80 0x7E := by decide
theorem test_decode_rawControlChange :
    decodeCmd 0b0001_10_00_00000101_00000001_01111111#32 = .rawControlChange 5 1 0x7F := by decide
theorem test_decode_noteOn :
    decodeCmd 0b0010_00_00_00000011_00000100_10000000#32 = .noteOn 3 4 0x80 := by decide
theorem test_decode_noteOff :
    decodeCmd 0b0011_00_00_00001111_01111111_00000010#32 = .noteOff 15 0x7F 2 := by decide
theorem test_decode_cc :
    decodeCmd 0b0100_00_00_00010000_00000010_00000101#32 = .cc 16 2 5 := by decide
theorem test_decode_frame : decodeCmd 0b0101_00_00_11111111_00000000_00000000#32 = .frame 255 := by decide
theorem test_decode_illegal_rsv :
    decodeCmd 0b0001_00_01_00000000_00000000_00000000#32 = .illegal 0x11000000 := by decide
theorem test_decode_illegal_frame_b :
    decodeCmd 0b0101_00_00_00000000_00000000_00000001#32 = .illegal 0x50000001 := by decide
theorem test_decode_unit : decodeTxt 0b0_1111111111111111#17 = .unitItem 0xFFFF := by decide
theorem test_decode_end : decodeTxt 0b1_1010101111001101#17 = .endItem 0xABCD := by decide
theorem test_decode_wireNoteOn :
    decodeWire 0b1001_1010_0_1000000_0_0000001#24 = .ok (.wireNoteOn 10 0x40 0x01) := rfl
theorem test_decode_wireNoteOff :
    decodeWire 0b1000_1111_0_0000000_0_1111111#24 = .ok (.wireNoteOff 15 0 0x7F) := rfl
theorem test_decode_wireControlChange :
    decodeWire 0b1011_0011_0_0000001_0_1101001#24 = .ok (.wireControlChange 3 1 0x69) := rfl
theorem test_decode_wire_nibble : decodeWire 0xA00000#24 = .error .statusNibble := rfl
theorem test_decode_wire_bit15 : decodeWire 0x908000#24 = .error .dataTopBit := rfl
theorem test_decode_wire_bit7 : decodeWire 0x900080#24 = .error .dataTopBit := rfl

/-! The host's two entry points, on one word of each port (V-CMD-1, V-TXT-1, V-TXT-3, V-PACK-3). -/

theorem test_table_cmd : decodeTableWord 32 0x20030000 = some (.noteOn 3 0 0) := by decide
theorem test_table_unit : decodeTableWord 24 0x00048 = some (.unitItem 0x48) := by decide
theorem test_table_end : decodeTableWord 24 0x1ABCD = some (.endItem 0xABCD) := by decide
theorem test_table_wire : decodeTableWord 24 0xB30169 = some (.wireControlChange 3 1 0x69) := by decide
theorem test_fetch_cmd : regs (step (State.reset.withFetchWord 32 0x20030000))
    = some (.issue, .single, 0, 0x930000, 0) := by decide
theorem test_fetch_unit : regs (step (State.reset.withFetchWord 24 0x000E9))
    = some (.issue, .dlo, 0, 0xB00169, 0) := by decide
theorem test_fetch_wire : traces (step (State.reset.withFetchWord 24 0xB30169))
    = some ([.msg 0xB30169], []) := by decide

/-! ## One step of each instruction (95_test_vectors.md 2.5 to 2.7 and P1) -/

/-- R101's word and fields for kind 0; the nibble 0x9 is W9's. -/
theorem test_rawNoteOn : regs (exec (.rawNoteOn 10 0x40 1) (framer .idle .dhi))
    = some (.issue, .single, 0, 0x9A4001, 0) := by decide
/-- R101: a channel of 16 fails, and ROLE and MSG keep what they held. -/
theorem test_rawNoteOn_range : regs (exec (.rawNoteOn 16 0 0) (framer .idle .dhi))
    = some (.resp, .dhi, 0, 0, 1) := by decide
/-- R101, kind 1, with the fields of V-CMD-6. -/
theorem test_rawNoteOff : regs (exec (.rawNoteOff 15 127 127) (framer .idle .dhi))
    = some (.issue, .single, 0, 0x8F7F7F, 0) := by decide
/-- R101's corner case (0, 128, 0). -/
theorem test_rawNoteOff_range : regs (exec (.rawNoteOff 0 128 0) (framer .idle .dhi))
    = some (.resp, .dhi, 0, 0, 1) := by decide
/-- V-CMD-2. -/
theorem test_rawControlChange : regs (exec (.rawControlChange 5 1 0x7F) (framer .idle .dhi))
    = some (.issue, .single, 0, 0xB5017F, 0) := by decide
/-- V-CMD-1. -/
theorem test_noteOn : regs (exec (.noteOn 3 0 0) (framer .idle .dhi))
    = some (.issue, .single, 0, 0x930000, 0) := by decide
/-- V-CMD-5. -/
theorem test_noteOn_range : regs (exec (.noteOn 0 128 0) (framer .idle .dhi))
    = some (.resp, .dhi, 0, 0, 1) := by decide
/-- V-CMD-6. -/
theorem test_noteOff : regs (exec (.noteOff 15 127 127) (framer .idle .dhi))
    = some (.issue, .single, 0, 0x8F7F7F, 0) := by decide
/-- V-CMD-13: no split of the operands. -/
theorem test_cc : regs (exec (.cc 0 2 5) (framer .idle .dhi))
    = some (.issue, .single, 0, 0xB00205, 0) := by decide
/-- V-CMD-4. -/
theorem test_cc_range : regs (exec (.cc 0 0 128) (framer .idle .dhi))
    = some (.resp, .dhi, 0, 0, 1) := by decide
/-- P1, row 1. -/
theorem test_frame : regs (exec (.frame 3) (framer .idle .single))
    = some (.issue, .start, 3, 0x930000, 0) := by decide
/-- V-FRM-7: the channel 16 drains. -/
theorem test_frame_range : regs (exec (.frame 16) (framer .idle .single))
    = some (.drain, .single, 0, 0, 1) := by decide
/-- V-CMD-11, on a closed link. -/
theorem test_illegal : regs (exec (.illegal 0x1C000000) State.reset)
    = some (.resp, .single, 0, 0, 4) := by decide
/-- P1, row 4. -/
theorem test_unit : regs (exec (.unitItem 0x48) { framer .getu .start with ch := 3 })
    = some (.issue, .dlo, 3, 0xB30048, 0) := by decide
/-- V-FRM-4: the low byte of U+20AC has bit 7 set. -/
theorem test_unit_bit7 : regs (exec (.unitItem 0x20AC) { framer .getu .dhi with ch := 15 })
    = some (.issue, .dlo, 15, 0xBF012C, 0) := by decide
/-- P1, row 14. -/
theorem test_end : regs (exec (.endItem 0) { framer .getu .dhi with ch := 3 })
    = some (.issue, .endMark, 3, 0x830000, 0) := by decide
/-- V-FRM-6: END ends the draining, and STATUS keeps the failure. -/
theorem test_end_drain : regs (exec (.endItem 0) { framer .drain .start with status := 3 })
    = some (.resp, .start, 0, 0, 3) := by decide
/-- P1, row 2. -/
theorem test_wireNoteOn : traces (exec (.wireNoteOn 3 0 0) { framer .issue .start with msg := 0x930000 })
    = some ([.msg 0x930000], []) := by decide
/-- P1, row 15. -/
theorem test_wireNoteOff : traces (exec (.wireNoteOff 3 0 0) { framer .issue .endMark with msg := 0x830000 })
    = some ([.msg 0x830000], []) := by decide
/-- P1, row 5. -/
theorem test_wireControlChange :
    traces (exec (.wireControlChange 3 0 0x48) { framer .issue .dlo with msg := 0xB30048 })
    = some ([.msg 0xB30048], []) := by decide
/-- R106 puts the message in `MSG` and no other. -/
theorem test_wire_other_message :
    traces (exec (.wireControlChange 3 0 0x49) { framer .issue .dlo with msg := 0xB30048 })
    = some ([], []) := by decide

/-! The framer's own steps. -/

/-- P1, row 6: the high byte of 'H'. -/
theorem test_count_dlo : regs (step { framer .wait .dlo with ch := 3, unit := 0x48, msg := 0xB30048, accOffer := [3] })
    = some (.issue, .dhi, 3, 0xB30000, 0) := by decide
/-- V-CMD-8: the count −1. -/
theorem test_count_minus_one : regs (step { framer .wait .single with msg := 0xB10203, accOffer := [0xFFFFFFFF] })
    = some (.resp, .single, 0, 0xB10203, 3) := by decide
/-- V-FRM-10: the end marker's failure drains nothing. -/
theorem test_count_end_marker : regs (step { framer .wait .endMark with msg := 0x850000, accOffer := [2] })
    = some (.resp, .endMark, 0, 0x850000, 3) := by decide
/-- V-FRM-9: the link closed at the third message. -/
theorem test_link_dhi : regs (step { framer .issue .dhi with msg := 0xB40000, linkOpen := false })
    = some (.drain, .dhi, 0, 0xB40000, 2) := by decide
/-- V-RST-1: a reset in WAIT. -/
theorem test_reset_in_wait : traces (step { framer .wait .dhi with
      wire := [.msg 0x930000, .msg 0xB30048, .msg 0xB30000], accOffer := [3], schedule := [.assertReset] })
    = some ([.msg 0x930000, .msg 0xB30048, .msg 0xB30000, .reset], [.reset]) := by decide

/-! The combinational functions (95_test_vectors.md 2.1 to 2.3). -/

/-- V-SPLIT-8: the rejected split of C1 would give 0xB00174. -/
theorem test_split_E9 : dataMsg 0 (byteFields 0xE9) = 0xB00169 := by decide
/-- V-UTF-7 and V-UTF-8. -/
theorem test_fields_bom : (lowFields 0xFEFF, highFields 0xFEFF) = ((1, 0x7F), (1, 0x7E)) := by decide
theorem test_fields_surrogate : (lowFields 0xD83D, highFields 0xD83D) = ((0, 0x3D), (1, 0x58)) := by decide
/-- V-PACK-5. -/
theorem test_pack : pack 0x9 10 0x40 0x01 = 0x9A4001 := by decide
/-- V-RNG-7. -/
theorem test_range_both_high : rangeOk 0 255 255 = false := by decide

/-! Assembler lines: `CC 3, 0, 0x48` (R104's example word), `.end` (R74), and an operand that does not fit. -/

theorem test_asm_cc : asmLine ['C', 'C', ' ', '3', ',', ' ', '0', ',', ' ', '0', 'x', '4', '8'] = some (.cmd 0x40030048) := by
  decide
theorem test_asm_end : asmLine ['.', 'e', 'n', 'd'] = some (.txt 0x10000) := by decide
/-- Log entry 19: spaces around an operand are ignored, and an operand with a space inside is refused. -/
theorem test_asm_spaces_around : asmLine ['F', 'R', 'A', 'M', 'E', ' ', ' ', '3', ' '] = some (.cmd 0x50030000) := by decide
theorem test_asm_space_inside : asmLine ['F', 'R', 'A', 'M', 'E', ' ', '1', ' ', '2'] = none := by decide
/-- `.word 0x1C000000` of V-CMD-11; and, by log entry 19, the same word in decimal. -/
theorem test_asm_word : asmLine ['.', 'w', 'o', 'r', 'd', ' ', '0', 'x', '1', 'C', '0', '0', '0', '0', '0', '0']
    = some (.cmd 0x1C000000) := by decide
theorem test_asm_word_decimal : asmLine ['.', 'w', 'o', 'r', 'd', ' ', '4', '6', '9', '7', '6', '2', '0', '4', '8']
    = some (.cmd 0x1C000000) := by decide
theorem test_asm_frame_256 : asmLine ['F', 'R', 'A', 'M', 'E', ' ', '2', '5', '6'] = none := by decide

/-! ## Witnesses: states and operands that meet the hypotheses of the obligations -/

theorem witness_EveryInstructionRoundTrips :
    (Instr.illegal 0x1C000000).WellFormed ∧ (Instr.cc 255 255 255).WellFormed ∧
    (Instr.endItem 0xFFFF).WellFormed ∧ (Instr.wireNoteOff 15 127 127).WellFormed := by decide

theorem witness_DecodedWordsEncodeBack :
    decode (.cmd 0x50000100) = .ok (.illegal 0x50000100) ∧ decode (.txt 0x1ABCD) = .ok (.endItem 0xABCD) ∧
    decode (.msg 0xBF7F7F) = .ok (.wireControlChange 15 127 127) := ⟨rfl, rfl, rfl⟩

theorem witness_IllegalWordsAreTheListedOnes :
    decodeCmd 0x00000000 = .illegal 0x00000000 ∧ decodeCmd 0x60000000 = .illegal 0x60000000 ∧
    decodeCmd 0x5FFF0000 = .illegal 0x5FFF0000 ∧ decodeCmd 0x50FF0000 ≠ .illegal 0x50FF0000 ∧
    State.reset.fsm = .idle ∧
    (let s : State := { framer .idle .single with cmdOffer := [0xF0000000] }
     decodeCmd 0xF0000000 = .illegal 0xF0000000 ∧ s.started = true ∧ s.schedule = [] ∧ s.fsm = .idle ∧
       s.hostReady = true ∧ s.cmdOffer = 0xF0000000 :: []) := by decide

theorem witness_WireWordsAreTheWireFormat :
    (∃ i, decodeWire 0x8F7F7F = .ok i) ∧ ¬ (∃ i, decodeWire 0x708000 = .ok i) :=
  ⟨⟨_, rfl⟩, fun ⟨_, h⟩ => nomatch h⟩

theorem witness_AssemblerWritesTheTabledWords :
    asmRaw 2 255 255 255 = some 0x18FFFFFF ∧ asmRaw 3 0 0 0 = none ∧ asmNoteOn 256 0 0 = none ∧
    asmFrame 255 = some 0x50FF0000 ∧ asmUnit 65535 = some 0x0FFFF ∧ asmUnit 65536 = none ∧
    (['C', 'C'], 3) ∈ mnemonicArities ∧ [3, 0].length ≠ 3 ∧ ['S', 'E', 'N', 'D'] ∉ mnemonicArities.map Prod.fst ∧
    asmMnemonic ['D', 'A', 'T', 'A'] [3, 0xE9] = some (.cmd 0x40030169) ∧
    (∀ d ∈ [0, 9], d < 10) ∧ (∀ d ∈ [0, 9, 10, 15], d < 16) ∧ ' ' ∈ ['1', ' ', '2'] ∧
    ' ' ∉ ['F', 'R', 'A', 'M', 'E'] ∧ ['0', 'x', 'F'] ≠ [] ∧ ' ' ∉ ['0', 'x', 'F'] ∧ ',' ∉ ['0', 'x', 'F'] := by decide

theorem witness_RangeCheckBounds : rangeOk 15 127 127 = true ∧ rangeOk 16 127 127 = false := by decide

theorem witness_DataFieldsByBitPosition : utf16le 0x20AC = [0xAC, 0x20] := by decide

theorem witness_SaturatedOperandsKeepTheRangeCheck :
    rangeOk (hostOperand 15) (hostOperand 127) (hostOperand 127) = true ∧
    rangeOk (hostOperand 256) (hostOperand 0) (hostOperand 0) = false ∧
    rangeOk (hostOperand 0) (hostOperand (-1)) (hostOperand 0) = false := by decide

theorem witness_RegistersAfterReset :
    resetEvent (framer .wait .dlo) = resetEvent (framer .wait .dlo) ∧ (resetEvent (framer .wait .dlo)).linkOpen = true := by
  decide

theorem witness_ResetEventInAnyState :
    ({ framer .wait .dlo with schedule := [.assertReset, .framer], started := false } : State).schedule
      = .assertReset :: [.framer] := by decide

/-- A framer that has not started. -/
def unstarted (m : Move) : State := { State.reset with started := false, schedule := [m] }

theorem witness_NothingRunsBeforeTheFirstReset :
    ((unstarted .framer).started = false ∧ nextMove (unstarted .framer) = .framer) ∧
    (∃ t, step (unstarted (.offerCmd 0x20030000)) = .next t) ∧
    nextMove (unstarted (.offerCmd 0x20030000)) ≠ .assertReset :=
  ⟨by decide, ⟨_, rfl⟩, by decide⟩

theorem witness_MessageCommandsLoadTheirMessage :
    (framer .idle .dhi).fsm = .idle ∧ (15 : BitVec 8) ≤ 15 ∧ (127 : BitVec 8) ≤ 127 ∧ (0 : BitVec 8) ≤ 127 := by decide

theorem witness_MessageCommandsRejectOutOfRange :
    (framer .idle .dhi).fsm = .idle ∧ (15 : BitVec 8) < 16 ∧ (127 : BitVec 8) < 128 ∧ (15 : BitVec 8) < 255 := by decide

theorem witness_FrameLoadsItsStartMarker : (framer .idle .dhi).fsm = .idle ∧ (15 : BitVec 8) ≤ 15 := by decide

theorem witness_FrameOutOfRangeDrains : (framer .idle .dhi).fsm = .idle ∧ (15 : BitVec 8) < 16 := by decide

theorem witness_CommandWordsWaitWhileBusy :
    (framer .issue .single).fsm ≠ .idle ∧ (framer .resp .single).fsm ≠ .idle := by decide

theorem witness_TextItemsInsideAFrame : (framer .getu .start).fsm = .getu := by decide

theorem witness_TextItemsWhileDraining : (framer .drain .start).fsm = .drain := by decide

theorem witness_TextItemsWaitOutsideAFrame :
    (framer .wait .dlo).fsm ≠ .getu ∧ (framer .wait .dlo).fsm ≠ .drain := by decide

/-- The message of the largest fields, of each of the three kinds. -/
theorem witness_WireMessagesArePut :
    ∀ n ∈ [0x9#4, 0x8#4, 0xB#4],
      let s : State := { framer .issue .single with msg := n ++ 15#4 ++ 0#1 ++ 127#7 ++ 0#1 ++ 127#7 }
      s.fsm = .issue ∧ s.linkOpen = true ∧ s.transportReady = true ∧
        s.msg = n ++ 15#4 ++ 0#1 ++ 127#7 ++ 0#1 ++ 127#7 := by decide

theorem witness_WireMessagesWaitOtherwise :
    (framer .wait .single).fsm ≠ .issue ∧ ({ framer .issue .single with linkOpen := false } : State).linkOpen = false ∧
    ({ framer .issue .single with transportReady := false } : State).transportReady = false := by decide

theorem witness_StepRunsTheDecodedInstruction :
    (let s : State := { framer .idle .single with cmdOffer := [0x50FF0000] }
     s.started = true ∧ nextMove s = .framer ∧ s.fsm = .idle ∧ s.cmdOffer = 0x50FF0000 :: []) ∧
    (let s : State := { framer .getu .start with txtOffer := [0x0FFFF] }
     s.started = true ∧ nextMove s = .framer ∧ s.fsm = .getu ∧ s.txtOffer = 0x0FFFF :: []) ∧
    (let s : State := { framer .drain .start with txtOffer := [0x10000] }
     s.started = true ∧ nextMove s = .framer ∧ s.fsm = .drain ∧ s.txtOffer = 0x10000 :: []) ∧
    (let s : State := { framer .issue .start with msg := 0x9F0000, schedule := [.framer] }
     s.started = true ∧ nextMove s = .framer ∧ s.fsm = .issue ∧ s.linkOpen = true ∧ s.transportReady = true ∧
       decodeWire s.msg = .ok (.wireNoteOn 15 0 0)) := by
  refine ⟨by decide, by decide, by decide, by decide, by decide, by decide, by decide, by decide, rfl⟩

theorem witness_LinkCheckFailsTheMessage :
    let s (r : Role) : State := { framer .issue r with linkOpen := false, msg := 0x930000 }
    ∀ r ∈ [Role.single, .start, .dlo, .dhi, .endMark],
      (s r).started = true ∧ nextMove (s r) = .framer ∧ (s r).fsm = .issue ∧ (s r).linkOpen = false := by decide

theorem witness_IssueStepPutsTheMessage :
    let s : State := { framer .issue .start with msg := 0x930000 }
    s.started = true ∧ nextMove s = .framer ∧ s.fsm = .issue ∧ s.linkOpen = true ∧ s.transportReady = true ∧
      wireMsgOk s.msg = true := by decide

/-- Every role with the count 3, and with the two counts next to it. -/
theorem witness_AcceptedCountStep :
    let s (r : Role) (c : AckCount) : State := { framer .wait r with accOffer := [c] }
    ∀ r ∈ [Role.single, .start, .dlo, .dhi, .endMark], ∀ c ∈ [3#32, 2#32, 4#32],
      (s r c).started = true ∧ nextMove (s r c) = .framer ∧ (s r c).fsm = .wait ∧ (s r c).accOffer = c :: [] ∧
        (s r c).role = r := fun _ _ _ _ => ⟨rfl, rfl, rfl, rfl, rfl⟩

theorem witness_FailSavesOnlyTheStatus :
    (framer .issue .start).role = .start ∧ (framer .wait .dlo).role = .dlo ∧ (framer .wait .dhi).role = .dhi ∧
    (framer .issue .single).role = .single ∧ (framer .wait .endMark).role = .endMark ∧
    (15 : BitVec 8) < 16 ∧ (127 : BitVec 8) < 128 := by decide

theorem witness_ResponseStepReturnsToIdle :
    let s : State := { framer .resp .single with status := 3 }
    s.started = true ∧ nextMove s = .framer ∧ s.fsm = .resp ∧ s.hostReady = true := by decide

/-- Each of the waits. -/
theorem witness_WaitsHaveNoTimeout :
    (let s := framer .idle .single
     s.started = true ∧ s.schedule = [] ∧ s.fsm = .idle ∧ s.cmdOffer = []) ∧
    (let s : State := { framer .issue .single with transportReady := false }
     s.started = true ∧ s.schedule = [] ∧ s.fsm = .issue ∧ s.linkOpen = true ∧ s.transportReady = false) ∧
    (let s := framer .wait .single
     s.started = true ∧ s.schedule = [] ∧ s.fsm = .wait ∧ s.accOffer = []) ∧
    (let s := framer .getu .start
     s.started = true ∧ s.schedule = [] ∧ s.fsm = .getu ∧ s.txtOffer = []) ∧
    (let s := framer .drain .start
     s.started = true ∧ s.schedule = [] ∧ s.fsm = .drain ∧ s.txtOffer = []) ∧
    (let s : State := { framer .resp .single with hostReady := false }
     s.started = true ∧ s.schedule = [] ∧ s.fsm = .resp ∧ s.hostReady = false) := by decide

theorem witness_OtherAgentsOnlyOffer :
    ∀ m ∈ [Move.driveLink true, .offerCmd 0xFFFFFFFF, .offerTxt 0x1FFFF, .offerAcc 0xFFFFFFFF, .hostReady false,
        .transportReady false],
      ({ framer .issue .single with schedule := [m, .framer] } : State).schedule = m :: [.framer] := by decide

/-- A frame's first message in flight, after one message and one response: a state that meets the invariant in WAIT. -/
def inFlightState : State :=
  { framer .wait .start with ch := 3, msg := 0x930000, wire := [.msg 0x930000], respTrace := [.status 0], accOffer := [3] }

theorem witness_Inv : Inv inFlightState where
  status_code := by decide
  msg_packed := fun _ => by decide
  msg_role := fun _ m h => by cases h; decide
  msg_in_flight := fun _ => rfl
  drain_failed := fun h => nomatch h
  wire_format := fun m h => by
    cases h with
    | head => decide
    | tail _ h => cases h
  resp_codes := fun c h => by
    cases h with
    | head => decide
    | tail _ h => cases h

theorem witness_EveryStepKeepsTheInvariant : Inv inFlightState ∧ ∃ t, step inFlightState = .next t :=
  ⟨witness_Inv, _, rfl⟩

theorem witness_AStartedFramerNeverStops : Inv inFlightState ∧ inFlightState.started = true :=
  ⟨witness_Inv, rfl⟩

theorem witness_TracesOnlyGrow : ∃ t, Host.Core.run Sys2Proof.core 2 inFlightState = .next t := ⟨_, rfl⟩

/-- A frame in ISSUE, whose next step puts its start marker. -/
def dueState : State := { framer .issue .start with ch := 3, msg := 0x930000 }

theorem witness_dueState_inv : Inv dueState where
  status_code := by decide
  msg_packed := fun _ => by decide
  msg_role := fun _ m h => by cases h; decide
  msg_in_flight := fun h => nomatch h
  drain_failed := fun h => nomatch h
  wire_format := fun m h => nomatch h
  resp_codes := fun c h => nomatch h

theorem witness_OneChannelPerFrame :
    Inv dueState ∧ dueState.fsm ≠ .idle ∧ nextMove dueState ≠ .assertReset ∧ dueState.role ≠ .single ∧
    ∃ t, step dueState = .next t ∧ t.wire = dueState.wire ++ [.msg 0x930000] :=
  ⟨witness_dueState_inv, by decide, by decide, by decide, _, rfl, rfl⟩

/-- In ISSUE, in WAIT with a count, in WAIT while a move of another agent comes first, and outside both. -/
theorem witness_MessagesAndCountsAlternate :
    (∃ t, step dueState = .next t ∧ t.fsm = .wait) ∧ dueState.fsm ≠ .wait ∧ nextMove dueState ≠ .assertReset ∧
    (∃ t, step inFlightState = .next t) ∧ inFlightState.fsm = .wait ∧ nextMove inFlightState ≠ .assertReset ∧
    (∃ t, step { inFlightState with schedule := [.offerAcc 0] } = .next t ∧ t.fsm = .wait) ∧
    (∃ t, step { framer .getu .start with schedule := [.offerAcc 3] } = .next t) :=
  ⟨⟨_, rfl, rfl⟩, by decide, by decide, ⟨_, rfl⟩, rfl, by decide, ⟨_, rfl, rfl⟩, _, rfl⟩

theorem witness_OneResponsePerCommand :
    (∃ t, step { framer .idle .single with cmdOffer := [0x20030000] } = .next t ∧ t.fsm ≠ .idle) ∧
    (∃ t, step { framer .idle .single with schedule := [.offerCmd 0] } = .next t ∧ t.fsm = .idle) ∧
    (∃ t, step { framer .resp .single with schedule := [.offerCmd 0] } = .next t) ∧
    (∃ t, step (framer .resp .single) = .next t ∧ t.fsm = .idle) ∧
    nextMove (framer .resp .single) ≠ .assertReset :=
  ⟨⟨_, rfl, by decide⟩, ⟨_, rfl, rfl⟩, ⟨_, rfl⟩, ⟨_, rfl, rfl⟩, by decide⟩

theorem witness_NoFailureAfterAFailure :
    (let s : State := { framer .drain .dlo with status := 2, txtOffer := [0x00048] }
     s.started = true ∧ nextMove s = .framer ∧ s.fsm = .drain) ∧
    (let s : State := { framer .resp .single with status := 1 }
     s.started = true ∧ nextMove s = .framer ∧ s.fsm = .resp) := by decide

theorem witness_LinkIsReadOnlyInIssue :
    (∃ t, step dueState = .next t) ∧ (∀ b, nextMove dueState ≠ .driveLink b) ∧
    inFlightState.fsm ≠ .issue ∧ nextMove inFlightState = .framer ∧ ∃ t, step inFlightState = .next t :=
  ⟨⟨_, rfl⟩, by decide, by decide, by decide, _, rfl⟩

/-- A command runs on a closed link while the link manager drives 0 once more. -/
theorem witness_ClosedLinkSendsNothing :
    let s : State := { State.reset with cmdOffer := [0x20030000], schedule := [.driveLink false, .framer] }
    s.linkOpen = false ∧ (∀ m ∈ s.schedule, m ≠ .driveLink true) ∧
      ∃ t, Host.Core.run Sys2Proof.core 3 s = .next t ∧ t.status = 2 :=
  ⟨rfl, by decide, _, rfl, rfl⟩

theorem witness_DataRegistersAreUnobservableFromIdle : (framer .idle .dhi).fsm = .idle := by decide

theorem witness_SingleCommandsIgnoreChannelAndUnit :
    let s : State := { framer .issue .single with
      msg := 0xB10203, ch := 7, unit := 0xABCD, schedule := [.framer, .offerAcc 3] }
    s.cmdOffer = [] ∧ (∀ m ∈ s.schedule, quietMove m = true) ∧ s.fsm = .issue ∧ s.role = .single ∧
      ∃ t, Host.Core.run Sys2Proof.core 4 s = .next t ∧ t.fsm = .idle :=
  ⟨rfl, by decide, rfl, rfl, _, rfl, rfl⟩

/-- With no message (V-CMD-3) and with one (V-CMD-1). -/
theorem witness_StatusFixesTheMessageCount :
    (let s : State := { framer .idle .single with cmdOffer := [0x40100000] }
     s.fsm = .idle ∧ (∀ m ∈ s.schedule, quietMove m = true) ∧ (∀ ch, decodeCmd 0x40100000 ≠ .frame ch) ∧
       ∃ t, Host.Core.run Sys2Proof.core 2 s = .next t ∧ t.fsm = .idle ∧ t.cmdOffer = [] ∧
         t.wire = [] ∧ t.respTrace = [.status 1]) ∧
    (let s : State := { framer .idle .single with cmdOffer := [0x20030000], accOffer := [3] }
     s.fsm = .idle ∧ (∀ m ∈ s.schedule, quietMove m = true) ∧ (∀ ch, decodeCmd 0x20030000 ≠ .frame ch) ∧
       ∃ t, Host.Core.run Sys2Proof.core 4 s = .next t ∧ t.fsm = .idle ∧ t.cmdOffer = [] ∧
         t.wire = [.msg 0x930000] ∧ t.respTrace = [.status 0]) :=
  ⟨⟨rfl, by decide, by decide, _, rfl, rfl, rfl, rfl, rfl⟩, ⟨rfl, by decide, by decide, _, rfl, rfl, rfl, rfl, rfl⟩⟩

/-- An empty text's frame with its start marker in flight, whose END item and second count arrive during the run; and
the same with a first count that fails. -/
theorem witness_WireFollowsTheOwedMessages :
    (let s : State := { inFlightState with
      schedule := [.framer, .offerTxt 0x10000, .framer, .framer, .offerAcc 3] }
     s.fsm ≠ .idle ∧ s.cmdOffer = [] ∧ (∀ m ∈ s.schedule, quietMove m = true) ∧
       ∃ t, Host.Core.run Sys2Proof.core 7 s = .next t ∧ t.fsm = .idle ∧
         t.wire = [.msg 0x930000, .msg 0x830000] ∧ t.respTrace = [.status 0, .status 0]) ∧
    (let s : State := { inFlightState with accOffer := [2], txtOffer := [0x10000] }
     s.fsm ≠ .idle ∧ s.cmdOffer = [] ∧ (∀ m ∈ s.schedule, quietMove m = true) ∧ s.fsm ≠ .drain ∧ s.fsm ≠ .resp ∧
       ∃ t, Host.Core.run Sys2Proof.core 3 s = .next t ∧ t.fsm = .idle ∧
         t.wire = [.msg 0x930000] ∧ t.respTrace = [.status 0, .status 3]) :=
  ⟨⟨by decide, rfl, by decide, _, rfl, rfl, rfl, rfl⟩,
    by decide, rfl, by decide, by decide, by decide, _, rfl, rfl, rfl, rfl⟩

theorem witness_AcceptedFrameOwesItsMessages :
    let s : State := { framer .idle .single with txtOffer := [0x00048, 0x10000] }
    s.fsm = .idle ∧ (15 : BitVec 8) ≤ 15 ∧ ∃ t, exec (.frame 15) s = .next t :=
  ⟨rfl, by decide, _, rfl⟩

/-- A draining frame whose END arrives during the run (its stream goes, the next one's item stays), and a single
command's response. -/
theorem witness_FrameConsumesOneTextStream :
    (let s : State := { framer .drain .start with
      txtOffer := [0x00048], schedule := [.framer, .offerTxt 0x10000, .offerTxt 0x00069] }
     s.fsm ≠ .idle ∧ s.cmdOffer = [] ∧ (∀ m ∈ s.schedule, quietMove m = true) ∧ owesStream s = true ∧
       ∃ t, Host.Core.run Sys2Proof.core 5 s = .next t ∧ t.fsm = .idle ∧ t.txtOffer = [0x00069]) ∧
    (let s : State := { framer .resp .single with txtOffer := [0x00048] }
     s.fsm ≠ .idle ∧ s.cmdOffer = [] ∧ (∀ m ∈ s.schedule, quietMove m = true) ∧ owesStream s = false ∧
       ∃ t, Host.Core.run Sys2Proof.core 1 s = .next t ∧ t.fsm = .idle ∧ t.txtOffer = [0x00048]) :=
  ⟨⟨by decide, rfl, by decide, rfl, _, rfl, rfl, rfl⟩, ⟨by decide, rfl, by decide, rfl, _, rfl, rfl, rfl⟩⟩

/-- P1: `SEND 3, "Hi"`, with a second word, a stray item and a further count behind it. -/
theorem witness_SuccessfulFrameRun :
    let s : State := { framer .idle .single with
      cmdOffer := [0x50030000, 0x20030000], txtOffer := [0x00048, 0x00069, 0x10000, 0x00041],
      accOffer := [3, 3, 3, 3, 3, 3, 0] }
    s.started = true ∧ s.schedule = [] ∧ s.fsm = .idle ∧ s.linkOpen = true ∧ s.transportReady = true ∧
      s.hostReady = true ∧ (3 : BitVec 8) ≤ 15 ∧
      s.cmdOffer = (0x5#4 ++ 0x0#4 ++ 3#8 ++ 0x00#8 ++ 0x00#8) :: [0x20030000] ∧
      s.txtOffer = textStream [0x48, 0x69] ++ [0x00041] ∧
      s.accOffer = List.replicate (2 * [0x48#16, 0x69#16].length + 2) 3 ++ [0] := by decide

/-- V-FRM-8, at the start marker; and the other two roles that drain. -/
theorem witness_AbortedFrameDrainsAndReports :
    let s (r : Role) : State := { framer .issue r with
      linkOpen := false, msg := 0x930000, txtOffer := [0x00048, 0x10000, 0x00069] }
    ∀ r ∈ [Role.start, .dlo, .dhi],
      (s r).started = true ∧ (s r).schedule = [] ∧ (s r).fsm = .issue ∧ (s r).linkOpen = false ∧
        (s r).hostReady = true ∧ (s r).role = r ∧ (s r).txtOffer = textStream [0x48] ++ [0x00069] :=
  fun _ _ => ⟨rfl, rfl, rfl, rfl, rfl, rfl, rfl⟩

/-- V-CMD-6 for each of the six commands' own words, with the count 3 and the count 4. -/
theorem witness_SingleCommandRun :
    (∀ iw ∈ [(Instr.rawNoteOn 15 127 127, 0x100F7F7F#32), (.rawNoteOff 15 127 127, 0x140F7F7F#32),
        (.rawControlChange 15 127 127, 0x180F7F7F#32), (.noteOn 15 127 127, 0x200F7F7F#32),
        (.noteOff 15 127 127, 0x300F7F7F#32), (.cc 15 127 127, 0x400F7F7F#32)], encode iw.1 = .cmd iw.2) ∧
    ∀ (w : CmdWord), ∀ c ∈ [3#32, 4#32],
      let s : State := { framer .idle .single with cmdOffer := [w], accOffer := [c] }
      s.cmdOffer = w :: [] ∧ s.accOffer = c :: [] ∧ s.started = true ∧ s.schedule = [] ∧ s.fsm = .idle ∧
        s.linkOpen = true ∧ s.transportReady = true ∧ s.hostReady = true :=
  ⟨by decide, fun _ _ _ => ⟨rfl, rfl, rfl, rfl, rfl, rfl, rfl, rfl⟩⟩

/-- V-CMD-11 (illegal), V-CMD-12 (range), V-CMD-7 (link), and a FRAME with an END item to drain. -/
theorem witness_FirstFailureIsReported :
    let s (w : CmdWord) : State := { State.reset with hostReady := true, cmdOffer := [w], txtOffer := [0x10000] }
    ∀ w ∈ [0x1C000000#32, 0x40100000#32, 0x20030000#32, 0x50030000#32, 0x50100000#32],
      (s w).started = true ∧ (s w).schedule = [] ∧ (s w).fsm = .idle ∧ (s w).linkOpen = false ∧
        (s w).hostReady = true ∧ (s w).cmdOffer = w :: [] ∧ (s w).txtOffer = 0x10000#17 :: [] :=
  fun _ _ => ⟨rfl, rfl, rfl, rfl, rfl, rfl, rfl⟩

theorem witness_HostResultOfSend : statusOk = 0 ∧ statusTransportErr ≠ 0 := by decide

end Sys2Proof.Tests
end

section
/-! PROOFS. The registers a run can still read. `ROLE`, `CH`, `MSG`, `UNIT` and `STATUS` are each read in some states
of `FSM` only (spec/10_state.md R35, R36). `Alike` relates two states that differ at most in registers that are not read
before they are written again; every step keeps it, so the two states show the same run. -/
namespace Sys2Proof.Machine

/-- The state without the contents of `ROLE`, `CH`, `MSG`, `UNIT` and `STATUS`. -/
def hideRegisters (s : State) : State :=
  { s with role := .single, ch := 0, msg := 0, unit := 0, status := 0 }

/-- Two states that differ in the contents of the five registers at most. -/
def SameRest (s t : State) : Prop := hideRegisters s = hideRegisters t

/-- Two states that agree outside the five registers, and in each of the five wherever it can still be read before it is
written again. -/
structure Alike (s t : State) : Prop where
  rest : SameRest s t
  /-- `MSG` is read by the issue step (R106). -/
  msg_read : s.fsm = .issue → s.msg = t.msg
  /-- `ROLE` is read when the message is accepted or fails (R108, R143). -/
  role_read : msgLive s = true → s.role = t.role
  /-- `CH` is read for the later messages of a frame (R122, R123, R124). -/
  ch_read : msgLive s = true ∧ s.role ≠ .single ∨ s.fsm = .getu → s.ch = t.ch
  /-- `UNIT` is read for the high byte's message, after the low byte's (R123). -/
  unit_read : msgLive s = true → s.role = .dlo → s.unit = t.unit
  /-- `STATUS` is read by the response step (R110). -/
  status_read : s.fsm = .drain ∨ s.fsm = .resp → s.status = t.status

namespace SameRest
variable {s t : State}

/-- Two such states agree on whatever does not depend on the five registers. -/
theorem read_eq {α : Type} (h : SameRest s t) (f : State → α) (hf : ∀ u, f (hideRegisters u) = f u) : f s = f t := by
  rw [← hf s, ← hf t, show hideRegisters s = hideRegisters t from h]

theorem fsm (h : SameRest s t) : s.fsm = t.fsm := h.read_eq State.fsm fun _ => rfl
theorem linkOpen (h : SameRest s t) : s.linkOpen = t.linkOpen := h.read_eq State.linkOpen fun _ => rfl
theorem wire (h : SameRest s t) : s.wire = t.wire := h.read_eq State.wire fun _ => rfl
theorem respTrace (h : SameRest s t) : s.respTrace = t.respTrace := h.read_eq State.respTrace fun _ => rfl
theorem cmdOffer (h : SameRest s t) : s.cmdOffer = t.cmdOffer := h.read_eq State.cmdOffer fun _ => rfl
theorem txtOffer (h : SameRest s t) : s.txtOffer = t.txtOffer := h.read_eq State.txtOffer fun _ => rfl
theorem accOffer (h : SameRest s t) : s.accOffer = t.accOffer := h.read_eq State.accOffer fun _ => rfl
theorem hostReady (h : SameRest s t) : s.hostReady = t.hostReady := h.read_eq State.hostReady fun _ => rfl
theorem transportReady (h : SameRest s t) : s.transportReady = t.transportReady :=
  h.read_eq State.transportReady fun _ => rfl
theorem started (h : SameRest s t) : s.started = t.started := h.read_eq State.started fun _ => rfl
theorem schedule (h : SameRest s t) : s.schedule = t.schedule := h.read_eq State.schedule fun _ => rfl

theorem takeCmd (h : SameRest s t) : SameRest (takeCmd s) (takeCmd t) := congrArg Machine.takeCmd h
theorem takeTxt (h : SameRest s t) : SameRest (takeTxt s) (takeTxt t) := congrArg Machine.takeTxt h
theorem takeAcc (h : SameRest s t) : SameRest (takeAcc s) (takeAcc t) := congrArg Machine.takeAcc h
theorem popMove (h : SameRest s t) : SameRest (popMove s) (popMove t) := congrArg Machine.popMove h
theorem putMsg (m : WireMsg) (h : SameRest s t) : SameRest (putMsg m s) (putMsg m t) :=
  congrArg (Machine.putMsg m) h
theorem putRsp (c : RespCode) (h : SameRest s t) : SameRest (putRsp c s) (putRsp c t) :=
  congrArg (Machine.putRsp c) h
theorem setFsm (f : Fsm) (h : SameRest s t) : SameRest (setFsm f s) (setFsm f t) := congrArg (Machine.setFsm f) h
theorem setCh (c : Channel) (h : SameRest s t) : SameRest (setCh c s) (setCh c t) := h
theorem setUnit (u : CodeUnit) (h : SameRest s t) : SameRest (setUnit u s) (setUnit u t) := h

/-- A move of another agent looks at none of the five registers. -/
theorem applyMove (m : Move) (h : SameRest s t) : SameRest (applyMove m s) (applyMove m t) := by
  have hm := congrArg (fun u => hideRegisters (Machine.applyMove m u)) h
  cases m <;> exact hm

/-- The next move is not read from the five registers. -/
theorem nextMove (h : SameRest s t) : nextMove s = nextMove t := by
  unfold Machine.nextMove
  rw [h.schedule]

/-! ## States in which the updates leave the framer -/

/-- In IDLE none of the five registers is read. -/
theorem alike_of_idle (h : SameRest s t) (hs : s.fsm = .idle) : Alike s t := by
  constructor <;> simp [h, hs, msgLive]

/-- A message that falls due writes `MSG` and `ROLE`, and a frame reads `CH` and `UNIT` after it. -/
theorem alike_load {r : Role} {m : WireMsg} (h : SameRest s t) (hch : r ≠ .single → s.ch = t.ch)
    (hunit : r = .dlo → s.unit = t.unit) : Alike (load r m s) (load r m t) := by
  have hrest : SameRest (load r m s) (load r m t) := h.setFsm .issue
  exact {
    rest := hrest
    msg_read := fun _ => rfl
    role_read := fun _ => rfl
    ch_read := fun hr => hch (by simpa [msgLive] using hr)
    unit_read := fun _ => hunit
    status_read := by simp }

/-- A command that ends writes `STATUS`, and no other register is read on the way to the response. -/
theorem alike_finish (c : RespCode) {f : Fsm} (hf : f = .drain ∨ f = .resp) (h : SameRest s t) :
    Alike (finish c f s) (finish c f t) := by
  have hrest : SameRest (finish c f s) (finish c f t) := h.setFsm f
  rcases hf with rfl | rfl <;> constructor <;> simp [hrest, msgLive]

/-- A framer that waits for a text item reads `CH` alone. -/
theorem alike_getu (h : SameRest s t) (hch : s.ch = t.ch) :
    Alike (Machine.setFsm .getu s) (Machine.setFsm .getu t) := by
  have hrest := h.setFsm .getu
  constructor <;> simp [hrest, msgLive, hch]

/-! ## Acceptance (R100, R101, R120): no register is read -/

theorem acceptSingle (n : Nibble) (ch a b : Byte) (h : SameRest s t) :
    Alike (acceptSingle n ch a b s) (acceptSingle n ch a b t) := by
  unfold Machine.acceptSingle
  split
  · exact alike_load h (by simp) (by simp)
  · exact alike_finish _ (.inr rfl) h

theorem acceptFrame (ch : Byte) (h : SameRest s t) : Alike (acceptFrame ch s) (acceptFrame ch t) := by
  unfold Machine.acceptFrame
  split
  · exact alike_load (h.setCh _) (by simp) (by simp)
  · exact alike_finish _ (.inl rfl) h

theorem acceptIllegal (h : SameRest s t) : Alike (acceptIllegal s) (acceptIllegal t) :=
  alike_finish _ (.inr rfl) h

end SameRest

namespace Alike
variable {s t : State}

/-- An update that keeps `FSM` and the five registers, and treats the rest of both states alike. -/
theorem of_registers_kept {f : State → State} (h : Alike s t) (hrest : SameRest (f s) (f t))
    (hf : ∀ u, (f u).fsm = u.fsm ∧ (f u).role = u.role ∧ (f u).ch = u.ch ∧ (f u).msg = u.msg ∧
      (f u).unit = u.unit ∧ (f u).status = u.status) : Alike (f s) (f t) := by
  obtain ⟨hfsm, hrole, hch, hmsg, hunit, hstatus⟩ := hf s
  obtain ⟨-, hrole', hch', hmsg', hunit', hstatus'⟩ := hf t
  have hlive : msgLive (f s) = msgLive s := by simp only [msgLive, hfsm]
  exact {
    rest := hrest
    msg_read := by rw [hfsm, hmsg, hmsg']; exact h.msg_read
    role_read := by rw [hlive, hrole, hrole']; exact h.role_read
    ch_read := by rw [hlive, hfsm, hrole, hch, hch']; exact h.ch_read
    unit_read := by rw [hlive, hrole, hunit, hunit']; exact h.unit_read
    status_read := by rw [hfsm, hstatus, hstatus']; exact h.status_read }

theorem takeTxt (h : Alike s t) : Alike (takeTxt s) (takeTxt t) :=
  h.of_registers_kept h.rest.takeTxt fun _ => ⟨rfl, rfl, rfl, rfl, rfl, rfl⟩

theorem takeAcc (h : Alike s t) : Alike (takeAcc s) (takeAcc t) :=
  h.of_registers_kept h.rest.takeAcc fun _ => ⟨rfl, rfl, rfl, rfl, rfl, rfl⟩

theorem popMove (h : Alike s t) : Alike (popMove s) (popMove t) :=
  h.of_registers_kept h.rest.popMove fun _ => ⟨rfl, rfl, rfl, rfl, rfl, rfl⟩

/-- A move of another agent keeps the registers, and the reset event writes them all. -/
theorem applyMove (m : Move) (h : Alike s t) : Alike (applyMove m s) (applyMove m t) := by
  by_cases hm : m = .assertReset
  · subst hm
    exact (h.rest.applyMove _).alike_of_idle rfl
  · refine h.of_registers_kept (h.rest.applyMove m) fun u => ?_
    obtain ⟨hfsm, hrole, hch, hmsg, hunit, hstatus, -, -⟩ := applyMove_registers hm u
    exact ⟨hfsm, hrole, hch, hmsg, hunit, hstatus⟩

/-! ## The steps every command shares -/

/-- The abort procedure reads `ROLE` and writes `STATUS` (R143). -/
theorem fail (e : RespCode) (h : Alike s t) (hs : msgLive s = true) : Alike (fail e s) (fail e t) := by
  unfold Machine.fail
  rw [← h.role_read hs]
  exact h.rest.alike_finish e (by cases abortsFrame s.role <;> simp)

/-- The response step reads `STATUS` (R110). -/
theorem respond (h : Alike s t) (hs : s.fsm = .resp) : Alike (respond s) (respond t) := by
  unfold Machine.respond
  rw [← h.status_read (.inr hs)]
  exact ((h.rest.putRsp _).setFsm .idle).alike_of_idle rfl

/-- The issue step reads `MSG` and keeps every register (R106). -/
theorem issue (h : Alike s t) (hs : s.fsm = .issue) : Alike (issue s) (issue t) := by
  have hlive : msgLive s = true := by simp [msgLive, hs]
  have hrest : SameRest (Machine.issue s) (Machine.issue t) := by
    unfold Machine.issue
    rw [← h.msg_read hs]
    exact (h.rest.putMsg _).setFsm .wait
  constructor
  case rest => exact hrest
  case role_read => exact fun _ => h.role_read hlive
  case ch_read => exact fun hr => h.ch_read (.inl ⟨hlive, by simpa [Machine.issue, msgLive] using hr⟩)
  case unit_read => exact fun _ => h.unit_read hlive
  all_goals simp [Machine.issue]

/-- What follows an accepted message reads `ROLE`, and `CH` and `UNIT` where the role has a message after it (R108). -/
theorem continueRole (h : Alike s t) (hs : msgLive s = true) :
    Alike (continueRole s.role s) (continueRole t.role t) := by
  rw [← h.role_read hs]
  cases hr : s.role with
  | single => exact h.rest.alike_finish _ (.inr rfl)
  | start => exact h.rest.alike_getu (h.ch_read (.inl ⟨hs, by simp [hr]⟩))
  | dlo =>
    have hch : s.ch = t.ch := h.ch_read (.inl ⟨hs, by simp [hr]⟩)
    simp only [Machine.continueRole]
    rw [← hch, ← h.unit_read hs hr]
    exact h.rest.alike_load (fun _ => hch) (by simp)
  | dhi => exact h.rest.alike_getu (h.ch_read (.inl ⟨hs, by simp [hr]⟩))
  | endMark => exact h.rest.alike_finish _ (.inr rfl)

/-- The accepted-count step (R107). -/
theorem takeCount (c : AckCount) (h : Alike s t) (hs : msgLive s = true) :
    Alike (takeCount c s) (takeCount c t) := by
  unfold Machine.takeCount
  split
  · exact h.takeAcc.continueRole hs
  · exact h.takeAcc.fail _ hs

/-! ## The port transfers -/

/-- A command word is accepted in IDLE, with no register read, or waits (R41, R100). -/
theorem onCmd {f : State → State} (hf : ∀ {u v}, SameRest u v → Alike (f u) (f v)) (h : Alike s t) :
    Alike (onCmd f s) (onCmd f t) := by
  by_cases hs : s.fsm = .idle
  · rw [onCmd_idle hs, onCmd_idle (h.rest.fsm ▸ hs)]
    exact hf h.rest.takeCmd
  · rw [onCmd_busy hs, onCmd_busy (h.rest.fsm ▸ hs)]
    exact h

/-- A text item is taken in GETU and in DRAIN, or waits (R42). -/
theorem onTxt {inFrame inDrain : State → State}
    (hFrame : ∀ {u v}, u.fsm = .getu → Alike u v → Alike (inFrame u) (inFrame v))
    (hDrain : ∀ {u v}, u.fsm = .drain → Alike u v → Alike (inDrain u) (inDrain v)) (h : Alike s t) :
    Alike (onTxt inFrame inDrain s) (onTxt inFrame inDrain t) := by
  unfold Machine.onTxt
  rw [← h.rest.fsm]
  cases hs : s.fsm with
  | getu => exact hFrame hs h.takeTxt
  | drain => exact hDrain hs h.takeTxt
  | idle | issue | wait | resp => exact h

/-- A wire message is put in ISSUE, where `MSG` is read, or waits (R106, R109). -/
theorem onMsg (m : WireMsg) (h : Alike s t) : Alike (onMsg m s) (onMsg m t) := by
  by_cases hs : s.fsm = .issue
  · unfold Machine.onMsg msgValid
    rw [← h.rest.fsm, ← h.rest.linkOpen, ← h.rest.transportReady, ← h.msg_read hs]
    split
    · exact h.issue hs
    · exact h
  · have ht : t.fsm ≠ .issue := h.rest.fsm ▸ hs
    simpa [Machine.onMsg, msgValid, hs, ht] using h

/-- A code unit inside a frame reads `CH` (R122). -/
theorem loadUnit (u : CodeUnit) (hs : s.fsm = .getu) (h : Alike s t) :
    Alike (load .dlo (lowMsg s.ch u) (setUnit u s)) (load .dlo (lowMsg t.ch u) (setUnit u t)) := by
  have hch : s.ch = t.ch := h.ch_read (.inr hs)
  rw [← hch]
  exact (h.rest.setUnit u).alike_load (fun _ => hch) fun _ => rfl

/-- END inside a frame reads `CH` (R124). -/
theorem loadEndMarker (hs : s.fsm = .getu) (h : Alike s t) :
    Alike (load .endMark (endMarker s.ch) s) (load .endMark (endMarker t.ch) t) := by
  have hch : s.ch = t.ch := h.ch_read (.inr hs)
  rw [← hch]
  exact h.rest.alike_load (fun _ => hch) (by simp)

/-- END while draining leads to the response, which reads `STATUS` (R126). -/
theorem drainEnd (hs : s.fsm = .drain) (h : Alike s t) : Alike (setFsm .resp s) (setFsm .resp t) := by
  have hrest := h.rest.setFsm .resp
  have hstatus := h.status_read (.inl hs)
  constructor <;> simp [hrest, msgLive, hstatus]

end Alike

/-! ## Steps and runs -/

/-- Two outcomes of the same kind, and alike where they answer a next state. -/
inductive OutcomeAlike : Host.Outcome State Fault Refusal → Host.Outcome State Fault Refusal → Prop where
  | next {s t : State} : Alike s t → OutcomeAlike (.next s) (.next t)
  | fault (r : Fault) : OutcomeAlike (.fault r) (.fault r)
  | refused (r : Refusal) : OutcomeAlike (.refused r) (.refused r)

namespace Alike
variable {s t : State}

/-- Every instruction's meaning keeps alike states alike. -/
theorem exec (i : Instr) (h : Alike s t) : OutcomeAlike (exec i s) (exec i t) := by
  cases i with
  | rawNoteOn ch a b => exact .next (h.onCmd (·.acceptSingle _ ch a b))
  | rawNoteOff ch a b => exact .next (h.onCmd (·.acceptSingle _ ch a b))
  | rawControlChange ch a b => exact .next (h.onCmd (·.acceptSingle _ ch a b))
  | noteOn ch a b => exact .next (h.onCmd (·.acceptSingle _ ch a b))
  | noteOff ch a b => exact .next (h.onCmd (·.acceptSingle _ ch a b))
  | cc ch a b => exact .next (h.onCmd (·.acceptSingle _ ch a b))
  | frame ch => exact .next (h.onCmd (·.acceptFrame ch))
  | illegal w => exact .next (h.onCmd (·.acceptIllegal))
  | unitItem u => exact .next (h.onTxt (fun hs h => h.loadUnit u hs) fun _ h => h)
  | endItem x => exact .next (h.onTxt (fun hs h => h.loadEndMarker hs) fun hs h => h.drainEnd hs)
  | wireNoteOn ch a b => exact .next (h.onMsg _)
  | wireNoteOff ch a b => exact .next (h.onMsg _)
  | wireControlChange ch a b => exact .next (h.onMsg _)

/-- Alike states carry the same word at the port of their next transfer. -/
theorem portWord (h : Alike s t) : portWord s = portWord t := by
  unfold Machine.portWord
  rw [← h.rest.fsm, ← h.rest.cmdOffer, ← h.rest.txtOffer, ← h.rest.linkOpen, ← h.rest.transportReady]
  cases hs : s.fsm with
  | issue => rw [h.msg_read hs]
  | idle | wait | getu | drain | resp => rfl

/-- The steps that carry no row of the opcode table keep alike states alike. -/
theorem ownStep (h : Alike s t) : Alike (ownStep s) (ownStep t) := by
  unfold Machine.ownStep
  rw [← h.rest.fsm, ← h.rest.linkOpen, ← h.rest.accOffer, ← h.rest.hostReady]
  cases hs : s.fsm with
  | issue =>
    cases s.linkOpen with
    | true => exact h
    | false => exact h.fail _ (by simp [msgLive, hs])
  | wait =>
    cases s.accOffer with
    | nil => exact h
    | cons c rest => exact h.takeCount c (by simp [msgLive, hs])
  | resp =>
    cases s.hostReady with
    | true => exact h.respond hs
    | false => exact h
  | idle | getu | drain => exact h

theorem framerStep (h : Alike s t) : OutcomeAlike (framerStep s) (framerStep t) := by
  unfold Machine.framerStep
  rw [← h.portWord]
  cases Machine.portWord s with
  | none => exact .next h.ownStep
  | some p =>
    cases hd : decode p with
    | ok i => simpa only [hd] using h.exec i
    | error e => simpa only [hd] using OutcomeAlike.fault _

/-- Every step, of any agent, keeps alike states alike. -/
theorem step (h : Alike s t) : OutcomeAlike (step s) (step t) := by
  unfold Machine.step
  rw [← h.rest.nextMove, ← h.rest.started]
  cases nextMove s with
  | framer =>
    cases s.started with
    | true => exact h.popMove.framerStep
    | false => exact .refused _
  | assertReset | driveLink | offerCmd | offerTxt | offerAcc | hostReady | transportReady =>
    exact .next (h.popMove.applyMove _)

/-- Runs from alike states answer alike outcomes. -/
theorem run (k : Nat) : ∀ {s t : State}, Alike s t →
    OutcomeAlike (Host.Core.run core k s) (Host.Core.run core k t) := by
  induction k with
  | zero => exact fun h => .next h
  | succ k ih =>
    intro s t h
    rw [machine_run_succ core k s, machine_run_succ core k t]
    have hstep : OutcomeAlike (core.step s) (core.step t) := h.step
    generalize core.step s = o, core.step t = p at hstep ⊢
    cases hstep with
    | next hst => exact ih hst
    | fault r => exact .fault r
    | refused r => exact .refused r

end Alike

/-- An observer cannot tell alike outcomes apart: neither the traces nor the signals read the five registers. -/
theorem OutcomeAlike.observe_eq {o p : Host.Outcome State Fault Refusal} (h : OutcomeAlike o p) :
    observe o = observe p := by
  cases h with
  | next h =>
    simp only [observe, runResult, cmdReady, txtReady, msgValid, accReady, rspValid, busy,
      h.rest.fsm, h.rest.linkOpen, h.rest.wire, h.rest.respTrace]
  | fault | refused => rfl

/-- Every run from IDLE shows the same traces and signals whatever the five registers hold. -/
theorem observe_run_idle {s t : State} (h : SameRest s t) (hs : s.fsm = .idle) (k : Nat) :
    observe (Host.Core.run core k s) = observe (Host.Core.run core k t) :=
  ((h.alike_of_idle hs).run k).observe_eq

end Sys2Proof.Machine
end

section
/-! PROOFS. The traces of a run (spec/10_state.md R31, R37). -/
namespace Sys2Proof.Machine

/-- Both traces of `t` are those of `s` with entries added at the end. -/
def TracesExtend (s t : State) : Prop := s.wire <+: t.wire ∧ s.respTrace <+: t.respTrace

theorem TracesExtend.trans {s t u : State} (h : TracesExtend s t) (h' : TracesExtend t u) : TracesExtend s u :=
  ⟨h.1.trans h'.1, h.2.trans h'.2⟩

theorem tracesExtend_of_eq {s t : State} (hw : t.wire = s.wire) (hr : t.respTrace = s.respTrace) :
    TracesExtend s t := by
  simp [TracesExtend, hw, hr]

/-- The acceptance of a single command puts nothing. -/
@[simp] theorem acceptSingle_traces (n : Nibble) (ch a b : Byte) (s : State) :
    (acceptSingle n ch a b s).wire = s.wire ∧ (acceptSingle n ch a b s).respTrace = s.respTrace := by
  unfold acceptSingle
  split <;> simp

/-- The acceptance of a FRAME command puts nothing. -/
@[simp] theorem acceptFrame_traces (ch : Byte) (s : State) :
    (acceptFrame ch s).wire = s.wire ∧ (acceptFrame ch s).respTrace = s.respTrace := by
  unfold acceptFrame
  split <;> simp

/-- The accepted-count step puts nothing. -/
@[simp] theorem takeCount_traces (c : AckCount) (s : State) :
    (takeCount c s).wire = s.wire ∧ (takeCount c s).respTrace = s.respTrace := by
  unfold takeCount
  split
  · cases s.role <;> simp [continueRole]
  · simp [fail]

/-- A framer event adds at most one entry at the end of a trace. -/
theorem FramerEvent.tracesExtend {s t : State} (e : FramerEvent s t) : TracesExtend s t := by
  cases e with
  | waits => exact tracesExtend_of_eq rfl rfl
  | single => exact tracesExtend_of_eq (by simp) (by simp)
  | frame => exact tracesExtend_of_eq (by simp) (by simp)
  | illegal => exact tracesExtend_of_eq rfl rfl
  | linkClosed => exact tracesExtend_of_eq rfl rfl
  | issued => exact ⟨⟨_, rfl⟩, List.prefix_rfl⟩
  | counted => exact tracesExtend_of_eq (by simp) (by simp)
  | unit => exact tracesExtend_of_eq rfl rfl
  | textEnd => exact tracesExtend_of_eq rfl rfl
  | drained => exact tracesExtend_of_eq rfl rfl
  | drainEnd => exact tracesExtend_of_eq rfl rfl
  | responded => exact ⟨List.prefix_rfl, ⟨_, rfl⟩⟩

/-- A move of another agent leaves the traces alone, and the reset event adds its marker to both. -/
theorem applyMove_tracesExtend (m : Move) (s : State) : TracesExtend s (applyMove m s) := by
  by_cases hm : m = .assertReset
  · subst hm
    exact ⟨⟨_, rfl⟩, ⟨_, rfl⟩⟩
  · obtain ⟨-, -, -, -, -, -, hw, hr⟩ := applyMove_registers hm s
    exact tracesExtend_of_eq hw hr

/-- A step never clears or rewrites an entry of a trace (R37). -/
theorem step_tracesExtend {s t : State} (h : step s = .next t) : TracesExtend s t := by
  rcases step_cases h with ⟨-, -, e⟩ | ⟨-, rfl⟩
  · exact e.tracesExtend
  · exact applyMove_tracesExtend (nextMove s) (popMove s)

end Sys2Proof.Machine
end

section
/-! PROOFS. The statements of the family of spec/10_state.md. -/
namespace Sys2Proof.Machine

/-- In IDLE the framer is ready for a command and for nothing else (R30). -/
theorem signals_idle {s : State} (h : s.fsm = .idle) :
    cmdReady s = true ∧ busy s = false ∧ txtReady s = false ∧ msgValid s = false ∧ accReady s = false ∧
      rspValid s = false := by
  simp [cmdReady, busy, txtReady, msgValid, accReady, rspValid, h]

/-- Settles O18: the values are those of `State.reset` and `resetEvent`, and no register is read in IDLE. -/
theorem registersAfterReset : Obligations.RegistersAfterReset := by
  refine ⟨fun s t ht => ?_, resetEvent_linkOpen, fun s role ch msg unit status k => ?_⟩
  · rcases ht with rfl | rfl
    · exact ⟨rfl, rfl, rfl, rfl, rfl, rfl, signals_idle rfl⟩
    · exact ⟨rfl, rfl, rfl, rfl, rfl, rfl, signals_idle rfl⟩
  · have hrest : SameRest { resetEvent s with role := role, ch := ch, msg := msg, unit := unit, status := status }
        (resetEvent s) := rfl
    exact observe_run_idle hrest rfl k

/-- Settles O43, by the packaged induction over runs from the extension of the traces at each step. -/
theorem tracesOnlyGrow : Obligations.TracesOnlyGrow := by
  intro k s t h
  exact run_keeps (P := TracesExtend s) (fun _ _ hu hstep => hu.trans (step_tracesExtend hstep)) k s t
    (tracesExtend_of_eq rfl rfl) h

/-- Settles O38: each signal is a test of `FSM`, and `MSG_VALID` one of `LINK_OPEN` too. -/
theorem signalsAreFunctionsOfTheState : Obligations.SignalsAreFunctionsOfTheState := by
  intro s
  refine ⟨?_, ?_, ?_, ?_, ?_, ?_⟩
  · simp [cmdReady]
  · simp [txtReady]
  · simp [msgValid]
  · simp [accReady]
  · simp [rspValid]
  · simp [busy]

end Sys2Proof.Machine
end

section
/-! PROOFS. The decoder of CMD against R64's list (spec/30_encoding.md R60 to R64), and the run of an illegal word. -/
namespace Sys2Proof.Machine

/-- One of the seven rows of CMD that carry a meaning of their own (R61). -/
def NamedCommand (i : Instr) : Prop :=
  ∃ ch a b, i = .rawNoteOn ch a b ∨ i = .rawNoteOff ch a b ∨ i = .rawControlChange ch a b ∨
    i = .noteOn ch a b ∨ i = .noteOff ch a b ∨ i = .cc ch a b ∨ i = .frame ch

/-- A named command is no illegal word. -/
theorem NamedCommand.ne_illegal {i : Instr} (h : NamedCommand i) (w : CmdWord) : i ≠ .illegal w := by
  rintro rfl
  simp [NamedCommand] at h

/-- Every status kind has its named row (R62). -/
theorem namedCommand_rawOf (k : StatusKind) (ch a b : Byte) : NamedCommand (rawOf k ch a b) := by
  refine ⟨ch, a, b, ?_⟩
  cases k <;> simp [rawOf]

/-- 3 is the one value of `kind` that selects no status kind (R62). -/
theorem kindOf_eq_none_iff : ∀ k : BitVec 2, kindOf k = none ↔ k = 3#2 := by decide

/-- The opcodes of the named commands are 1 to 5 (R61). -/
theorem op_unassigned : ∀ op : BitVec 4, op ≠ 1#4 → op ≠ 2#4 → op ≠ 3#4 → op ≠ 4#4 → op ≠ 5#4 →
    op = 0#4 ∨ 6#4 ≤ op := by decide

/-- R64's five clauses as propositions. -/
theorem illegalWord_iff (w : CmdWord) : illegalWord w = true ↔
    (cmdOp w = 0#4 ∨ 6#4 ≤ cmdOp w) ∨
    cmdRsv w ≠ 0#2 ∨
    (cmdKind w = 3#2 ∧ cmdOp w = 1#4) ∨
    (cmdKind w ≠ 0#2 ∧ cmdOp w ≠ 1#4) ∨
    ((cmdA w ≠ 0#8 ∨ cmdB w ≠ 0#8) ∧ cmdOp w = 5#4) := by
  simp only [illegalWord, Bool.or_eq_true, Bool.and_eq_true, beq_iff_eq, bne_iff_ne, decide_eq_true_eq, or_assoc,
    and_comm]

/-- The decoder of CMD answers `illegal` on the listed words and a named command on every other (R63, R64). -/
theorem decodeCmd_cases (w : CmdWord) :
    (illegalWord w = true ∧ decodeCmd w = .illegal w) ∨ (illegalWord w = false ∧ NamedCommand (decodeCmd w)) := by
  unfold decodeCmd
  simp only
  split
  next hrsv => exact .inl ⟨by simp [illegalWord, hrsv], rfl⟩
  next hrsv =>
  rw [not_not] at hrsv
  split
  next hop =>
    split
    next hk =>
      rw [kindOf_eq_none_iff] at hk
      exact .inl ⟨by simp [illegalWord, hop, hk], rfl⟩
    next k hk =>
      have hkind : cmdKind w ≠ 3#2 := fun h => by simp [(kindOf_eq_none_iff _).mpr h] at hk
      exact .inr ⟨by simp [illegalWord, hrsv, hop, hkind], namedCommand_rawOf k _ _ _⟩
  next h1 =>
  split
  next hkind => exact .inl ⟨by simp [illegalWord, h1, hkind], rfl⟩
  next hkind =>
  rw [not_not] at hkind
  split
  next hop =>
    exact .inr ⟨by simp [illegalWord, hrsv, hop, hkind], cmdCh w, cmdA w, cmdB w, by simp⟩
  next h2 =>
  split
  next hop =>
    exact .inr ⟨by simp [illegalWord, hrsv, hop, hkind], cmdCh w, cmdA w, cmdB w, by simp⟩
  next h3 =>
  split
  next hop =>
    exact .inr ⟨by simp [illegalWord, hrsv, hop, hkind], cmdCh w, cmdA w, cmdB w, by simp⟩
  next h4 =>
  split
  next hop =>
    split
    next hab => exact .inl ⟨(illegalWord_iff w).mpr (.inr (.inr (.inr (.inr ⟨hab, hop⟩)))), rfl⟩
    next hab =>
      obtain ⟨ha, hb⟩ : cmdA w = 0#8 ∧ cmdB w = 0#8 := by simpa using hab
      exact .inr ⟨by simp [illegalWord, hrsv, hop, hkind, ha, hb], cmdCh w, 0#8, 0#8, by simp⟩
  next h5 => exact .inl ⟨(illegalWord_iff w).mpr (.inl (op_unassigned _ h1 h2 h3 h4 h5)), rfl⟩

/-- The decoder of CMD answers `illegal` on exactly the listed words (R64). -/
theorem decodeCmd_eq_illegal_iff (w : CmdWord) : decodeCmd w = .illegal w ↔ illegalWord w = true := by
  rcases decodeCmd_cases w with ⟨hw, hd⟩ | ⟨hw, hd⟩
  · simp only [hw, hd]
  · simp only [hw, hd.ne_illegal w, Bool.false_eq_true]

/-- In IDLE an illegal word is taken and its response is due (R64, R100). -/
theorem exec_illegal_idle {s : State} (h : s.fsm = .idle) (w : CmdWord) :
    exec (.illegal w) s = .next (acceptIllegal (takeCmd s)) := by
  simp only [exec, execIllegal, onCmd_idle h]

/-- An illegal word is answered in two steps when the host takes the response (R64, R110). -/
theorem run_illegal {s : State} {w : CmdWord} {words : List CmdWord} (hw : decodeCmd w = .illegal w)
    (hstarted : s.started = true) (hsched : s.schedule = []) (hidle : s.fsm = .idle) (hhost : s.hostReady = true)
    (hq : s.cmdOffer = w :: words) :
    Host.Core.run core 2 s = .next (respond (acceptIllegal (takeCmd s))) := by
  have accepted : step s = .next (acceptIllegal (takeCmd s)) := by
    rw [step_idleSchedule hstarted hsched, framerStep_idle hidle hq, hw, exec_illegal_idle hidle]
  have answered : step (acceptIllegal (takeCmd s)) = .next (respond (acceptIllegal (takeCmd s))) :=
    (step_idleSchedule (s := acceptIllegal (takeCmd s)) hstarted hsched).trans (framerStep_respond rfl hhost)
  rw [run_step accepted, run_step answered]
  rfl

end Sys2Proof.Machine
end

section
/-! PROOFS. The statements of the family of spec/30_encoding.md. -/
namespace Sys2Proof.Machine

/-- Settles O4: the list is that of `illegalWord`, and the run is the acceptance and the response step. -/
theorem illegalWordsAreTheListedOnes : Obligations.IllegalWordsAreTheListedOnes := by
  refine ⟨fun w => ?_, fun w hw => ?_, fun w s hidle => ?_, fun w words s hw hstarted hsched hidle hhost hq => ?_⟩
  · exact (decodeCmd_eq_illegal_iff w).trans (illegalWord_iff w)
  · rcases decodeCmd_cases w with ⟨-, hd⟩ | ⟨-, hd⟩
    · exact absurd hd hw
    · exact hd
  · exact exec_illegal_idle hidle w
  · obtain rfl : words = s.cmdOffer.tail := by rw [hq, List.tail_cons]
    exact run_illegal hw hstarted hsched hidle hhost hq

/-- Settles O5: the decoder tests bit 16, and the meaning of END does not read the item's other bits. -/
theorem textItemsDecodeByTheEndBit : Obligations.TextItemsDecodeByTheEndBit := by
  refine ⟨fun t => ?_, fun x y s => ?_⟩
  · have hend : txtEnd t = t[16] := BitVec.getLsbD_eq_getElem (by decide)
    have hunit : txtUnit t = t.extractLsb 15 0 := rfl
    unfold decodeTxt
    rw [hend, hunit]
  · have inert : ∀ z, exec (.endItem z) s = execEndItem 0#16 s := fun _ => rfl
    rw [inert x, inert y]

end Sys2Proof.Machine
end

section
/-! PROOFS. The framer's combinational functions (spec/40_codec.md R90 to R98): fields of a field and masks, then the
laws of each function in the order of its definition. -/
namespace Sys2Proof.Machine

/-! ## Fields and masks -/

/-- A field of a field is a field of the word. -/
theorem extractLsb'_extractLsb' {w : Nat} (x : BitVec w) {start len start' len' : Nat} (h : start' + len' ≤ len) :
    (x.extractLsb' start len).extractLsb' start' len' = x.extractLsb' (start + start') len' := by
  ext i hi
  have inField : start' + i < len := by omega
  simp [inField, Nat.add_assoc]

/-- A shift and a mask of `len` ones read the field of `len` bits (R96). -/
theorem setWidth_extractLsb'_eq_and {w : Nat} (x : BitVec w) (start len : Nat) :
    (x.extractLsb' start len).setWidth w = (x >>> start) &&& BitVec.ofNat w (2 ^ len - 1) := by
  ext i hi
  simp [← BitVec.getLsbD_eq_getElem, BitVec.getLsbD_ofNat, hi, Bool.and_comm]

/-- A mask as wide as the field changes nothing. -/
theorem setWidth_and_mask {len : Nat} (v : BitVec len) (w : Nat) :
    v.setWidth w &&& BitVec.ofNat w (2 ^ len - 1) = v.setWidth w := by
  ext i hi
  by_cases inField : i < len
  · simp [← BitVec.getLsbD_eq_getElem, BitVec.getLsbD_ofNat, hi, inField]
  · simp [BitVec.getLsbD_of_ge v i (by omega)]

/-! ## The 7-bit serializer (R90, R91) -/

/-- The number is the byte shifted by 7, masked to one bit (R90). -/
theorem split_number (p : Byte) : (split p).1.setWidth 8 = (p >>> 7) &&& 0x1 :=
  setWidth_extractLsb'_eq_and p 7 1

/-- The value is the byte masked to its low seven bits (R90). -/
theorem split_value (p : Byte) : (split p).2.setWidth 8 = p &&& 0x7F := by
  rw [split, setWidth_extractLsb'_eq_and, BitVec.ushiftRight_zero]
  rfl

/-- Data field A of a payload byte is 0 or 1 (R90). -/
theorem byteFields_fst (p : Byte) : (byteFields p).1 = 0 ∨ (byteFields p).1 = 1 := by
  have bit : ∀ n : BitVec 1, n.setWidth 7 = 0#7 ∨ n.setWidth 7 = 1#7 := by decide
  exact bit (split p).1

/-- The number and the value sit in separate bits, so the two fields side by side are the shift and the OR (R91). -/
theorem reassemble_eq_or (n : BitVec 1) (v : Data7) :
    reassemble n v = (n.setWidth 8 <<< 7) ||| (v.setWidth 8 &&& 0x7F) := by
  have fields : n ++ v = (n.setWidth 8 <<< 7) ||| v.setWidth 8 := by
    simpa using BitVec.setWidth_append_eq_shiftLeft_setWidth_or (w'' := 8) (b := n) (b' := v)
  have mask : v.setWidth 8 &&& 0x7F = v.setWidth 8 := setWidth_and_mask v 8
  rw [mask]
  exact fields

/-- `p[7] ++ p[6:0] = p` (R91). -/
@[simp] theorem reassemble_split (p : Byte) : reassemble (split p).1 (split p).2 = p :=
  BitVec.extractLsb'_append_extractLsb'

/-! ## The UTF-16 encoder and its reference inverse (R92, R98) -/

@[simp] theorem textToBytes_nil : textToBytes [] = [] := rfl

/-- A text's bytes begin with the low and the high byte of its first code unit (R92). -/
@[simp] theorem textToBytes_cons (u : CodeUnit) (text : List CodeUnit) :
    textToBytes (u :: text) = u.extractLsb' 0 8 :: u.extractLsb' 8 8 :: textToBytes text := rfl

/-- Two bytes per code unit and no byte-order mark (R92). -/
theorem length_textToBytes (text : List CodeUnit) : (textToBytes text).length = 2 * text.length := by
  induction text with
  | nil => rfl
  | cons u text ih =>
    simp only [textToBytes_cons, List.length_cons, ih]
    omega

@[simp] theorem bytesToText_nil : bytesToText [] = some [] := rfl

/-- The first byte pair is read back as the high byte before the low byte (R98). -/
@[simp] theorem bytesToText_pair (lo hi : Byte) (rest : List Byte) :
    bytesToText (lo :: hi :: rest) = (bytesToText rest).map fun text => (hi ++ lo : CodeUnit) :: text := rfl

/-- The two bytes of a code unit, put together, are the code unit: the encoder drops no bits (R92). -/
theorem highByte_append_lowByte (u : CodeUnit) : (u.extractLsb' 8 8 ++ u.extractLsb' 0 8 : CodeUnit) = u :=
  BitVec.extractLsb'_append_extractLsb'

/-- The round-trip law of a text (R98). -/
@[simp] theorem bytesToText_textToBytes (text : List CodeUnit) : bytesToText (textToBytes text) = some text := by
  induction text with
  | nil => rfl
  | cons u text ih =>
    rw [textToBytes_cons, bytesToText_pair, ih, Option.map_some, highByte_append_lowByte]

/-! ## The packer and the range check (R94, R95) -/

/-- The nibble and the channel sit in separate bits, so byte 0 is the shift and the OR (R94). -/
theorem pack_eq_or (nib : Nibble) (ch : Channel) (a b : Byte) :
    pack nib ch a b = ((nib.setWidth 8 <<< 4) ||| ch.setWidth 8) ++ a ++ b := by
  have byte0 : nib ++ ch = (nib.setWidth 8 <<< 4) ||| ch.setWidth 8 := by
    simpa using BitVec.setWidth_append_eq_shiftLeft_setWidth_or (w'' := 8) (b := nib) (b' := ch)
  exact congrArg (fun byte : Byte => byte ++ a ++ b) byte0

/-- The bounds of the range check, on the unsigned values of the fields (R95). -/
theorem rangeOk_iff (ch a b : Byte) : rangeOk ch a b = true ↔ ch.toNat ≤ 15 ∧ a.toNat ≤ 127 ∧ b.toNat ≤ 127 := by
  simp [rangeOk, Config.maxChannel, Config.maxData, BitVec.le_def, and_assoc]

/-- A single command in range loads its message, whose channel is the low half of the operand (R95, R101). -/
theorem acceptSingle_inRange {ch a b : Byte} (h : rangeOk ch a b = true) (nib : Nibble) (s : State) :
    acceptSingle nib ch a b s =
      { s with msg := nib ++ ch.extractLsb 3 0 ++ a ++ b, role := .single, fsm := .issue } := by
  have channel : ch.setWidth 4 = ch.extractLsb 3 0 := BitVec.setWidth_eq_extractLsb' (by decide)
  rw [acceptSingle, if_pos h, channel]
  rfl

/-- A single command out of range fails with RANGE_ERR and leaves `MSG` alone (R95, R101). -/
theorem acceptSingle_outOfRange {ch a b : Byte} (h : rangeOk ch a b = false) (nib : Nibble) (s : State) :
    acceptSingle nib ch a b s = { s with status := statusRangeErr, fsm := .resp } := by
  rw [acceptSingle, h]
  rfl

/-! ## The data messages of a code unit (R97) -/

/-- The low byte's message carries `(u[7], u[6:0])` (R97). -/
theorem lowFields_eq (u : CodeUnit) : lowFields u = ((u.extractLsb' 7 1).setWidth 7, u.extractLsb' 0 7) := by
  rw [lowFields, byteFields, split, extractLsb'_extractLsb' u (by decide), extractLsb'_extractLsb' u (by decide)]

/-- The high byte's message carries `(u[15], u[14:8])` (R97). -/
theorem highFields_eq (u : CodeUnit) : highFields u = ((u.extractLsb' 15 1).setWidth 7, u.extractLsb' 8 7) := by
  rw [highFields, byteFields, split, extractLsb'_extractLsb' u (by decide), extractLsb'_extractLsb' u (by decide)]

end Sys2Proof.Machine
end

section
/-! PROOFS. The statements of the family of spec/40_codec.md. -/
namespace Sys2Proof.Machine

/-- Settles O12, by the round trip of a text, an induction on the text with two bytes put together at each code unit. -/
theorem textRoundTripsThroughBytes : Obligations.TextRoundTripsThroughBytes :=
  ⟨bytesToText_nil, bytesToText_pair, bytesToText_textToBytes⟩

/-- Settles O9, by the mask law of a field for every byte; the corner cases are evaluated. -/
theorem splitTakesBitSeven : Obligations.SplitTakesBitSeven := by
  refine ⟨fun p => ⟨split_number p, split_value p, rfl, byteFields_fst p⟩, ?_⟩
  decide

/-- Settles O10, by the laws of `reassemble`. -/
theorem reassembleUndoesSplit : Obligations.ReassembleUndoesSplit :=
  ⟨reassemble_eq_or, reassemble_split, by decide⟩

/-- Settles O11, by the equations of `textToBytes` and its length. -/
theorem textBytesAreLittleEndian : Obligations.TextBytesAreLittleEndian := by
  refine ⟨fun _ => rfl, textToBytes_nil, textToBytes_cons, length_textToBytes, ?_⟩
  decide

/-- Settles O13, by the separate bits of nibble and channel. -/
theorem packIsShiftAndOr : Obligations.PackIsShiftAndOr := by
  refine ⟨pack_eq_or, ?_⟩
  decide

/-- Settles O14, by the bounds of the check and the two outcomes of the acceptance. -/
theorem rangeCheckBounds : Obligations.RangeCheckBounds := by
  refine ⟨rangeOk_iff, fun nib ch a b s => ⟨fun h => ?_, fun h => ?_⟩, ?_⟩
  · exact acceptSingle_inRange h nib s
  · exact acceptSingle_outOfRange h nib s
  · decide

/-- Settles O15, by the bit positions of a field of a byte. -/
theorem dataFieldsByBitPosition : Obligations.DataFieldsByBitPosition := by
  refine ⟨fun u lo hi h => ?_, fun u => ⟨lowFields_eq u, highFields_eq u⟩, ?_⟩
  · obtain ⟨rfl, rfl⟩ : u.extractLsb' 0 8 = lo ∧ u.extractLsb' 8 8 = hi := by simpa [utf16le] using h
    exact ⟨rfl, rfl⟩
  · decide

end Sys2Proof.Machine
end

section
/-! PROOFS. The framer's own steps once a message is due (spec/41_channel.md R105 to R110): where an abort goes, the
words the issue step can put, and the bits of a data message. -/
namespace Sys2Proof.Machine

/-- An abort drains in the three roles of a frame whose END item is still to come (R143). -/
theorem abortTarget_eq (r : Role) :
    (if abortsFrame r then Fsm.drain else .resp) = if r = .start ∨ r = .dlo ∨ r = .dhi then .drain else .resp := by
  cases r <;> rfl

/-- A word of the wire format is a row of MSG (R67, R68). -/
theorem decodeWire_of_wireMsgOk {m : WireMsg} (h : wireMsgOk m = true) : ∃ i, decodeWire m = .ok i := by
  obtain ⟨hnibble, htop⟩ : ((wireNibble m = 0x8#4 ∨ wireNibble m = 0x9#4) ∨ wireNibble m = 0xB#4) ∧
      wireTopBitsClear m = true := by
    simpa only [wireMsgOk, Bool.and_eq_true, Bool.or_eq_true, beq_iff_eq] using h
  rcases hnibble with (h8 | h9) | hB
  · exact ⟨_, by rw [decodeWire_eq, htop, h8]; rfl⟩
  · exact ⟨_, by rw [decodeWire_eq, htop, h9]; rfl⟩
  · exact ⟨_, by rw [decodeWire_eq, htop, hB]; rfl⟩

/-- In ISSUE with both sides willing a wire message is put (R106). -/
theorem framerStep_issue_wireMsg {s : State} (h : s.fsm = .issue) (hl : s.linkOpen = true)
    (ht : s.transportReady = true) (hm : wireMsgOk s.msg = true) : framerStep s = .next (issue s) := by
  obtain ⟨i, hd⟩ := decodeWire_of_wireMsgOk hm
  rw [framerStep_issue h hl ht hd]
  exact (exec_decodeWire h hl ht hd).2

/-- A message accepted with the count 3 goes on as its role says (R107). -/
theorem takeCount_accepted {c : AckCount} (h : c = 3) (s : State) :
    takeCount c s = continueRole s.role (takeAcc s) :=
  if_pos (beq_iff_eq.mpr h)

/-- A message with any other count fails (R107). -/
theorem takeCount_refused {c : AckCount} (h : c ≠ 3) (s : State) :
    takeCount c s = fail statusTransportErr (takeAcc s) :=
  if_neg fun hc => h (beq_iff_eq.mp hc)

/-- A data message by its bits: the number is one bit, zero-extended, and the value seven (R67, R94, R97). -/
theorem dataMsg_bits (ch : Channel) (number : BitVec 1) (value : Data7) :
    dataMsg ch (number.setWidth 7, value) = 0xB#4 ++ ch ++ 0#7 ++ number ++ 0#1 ++ value := by
  rw [dataMsg, pack_setWidth, kindNibble]
  apply BitVec.eq_of_getLsbD_eq
  intro i hi
  simp only [wireWord, BitVec.getLsbD_append, BitVec.getLsbD_setWidth]
  interval_cases i <;> simp

/-- The high byte's message by the bits of the code unit (R97, R123). -/
theorem highMsg_bits (ch : Channel) (u : CodeUnit) :
    highMsg ch u = 0xB#4 ++ ch ++ 0#7 ++ u.extractLsb 15 15 ++ 0#1 ++ u.extractLsb 14 8 := by
  rw [highMsg, highFields_eq, dataMsg_bits]
  rfl

end Sys2Proof.Machine
end

section
/-! PROOFS. Runs in which no agent resets the framer or offers a further command, and a single command's way through
them. -/
namespace Sys2Proof.Machine

/-- The next move of a quiet schedule is quiet. -/
theorem quietMove_nextMove {s : State} (h : ∀ m ∈ s.schedule, quietMove m = true) :
    quietMove (nextMove s) = true := by
  unfold nextMove
  split
  · rfl
  · next m rest hs => exact h m (by rw [hs]; exact List.mem_cons_self)

/-- The packaged induction over a quiet schedule: a property that every step with a quiet move keeps, as the text and
the counts arrive, holds after every run. -/
theorem run_keeps_quiet {P : List TextItem → List AckCount → State → Prop}
    (hstep : ∀ x c s t, P x c s → quietMove (nextMove s) = true → step s = .next t →
      P (x ++ moveText (nextMove s)) (c ++ moveCount (nextMove s)) t)
    {k : Nat} {s t : State} (hq : ∀ m ∈ s.schedule, quietMove m = true) (hs : P [] [] s)
    (h : Host.Core.run core k s = .next t) : P (textWithin k s) (countsWithin k s) t := by
  have key := run_keeps_within (P := fun x c u => (∀ m ∈ u.schedule, quietMove m = true) ∧ P x c u)
    (fun x c u v ⟨hquiet, hu⟩ hv =>
      ⟨fun m hm => hquiet m (List.mem_of_mem_tail (step_schedule hv ▸ hm)),
        hstep x c u v hu (quietMove_nextMove hquiet) hv⟩)
    k [] [] s t ⟨hq, hs⟩ h
  exact key.right

/-- Every named command but FRAME is one that puts a single message (R101 to R104). -/
theorem exec_named_notFrame {i : Instr} (h : NamedCommand i) (hi : ∀ ch, i ≠ .frame ch) :
    ∃ n ch a b, ∀ s, exec i s = .next (onCmd (acceptSingle n ch a b) s) := by
  obtain ⟨ch, a, b, h⟩ := h
  rcases h with rfl | rfl | rfl | rfl | rfl | rfl | rfl
  case inr.inr.inr.inr.inr.inr => exact absurd rfl (hi ch)
  all_goals exact ⟨_, ch, a, b, fun _ => rfl⟩

/-- A word of CMD that is no FRAME is accepted as a single command or as an illegal word (R63, R100). -/
theorem exec_decodeCmd_notFrame {s : State} {w : CmdWord} (h : s.fsm = .idle) (hw : ∀ ch, decodeCmd w ≠ .frame ch) :
    (∃ n ch a b, exec (decodeCmd w) s = .next (acceptSingle n ch a b (takeCmd s))) ∨
    exec (decodeCmd w) s = .next (acceptIllegal (takeCmd s)) := by
  rcases decodeCmd_cases w with ⟨-, hd⟩ | ⟨-, hd⟩
  · exact .inr (hd ▸ exec_illegal_idle h w)
  · obtain ⟨n, ch, a, b, he⟩ := exec_named_notFrame hd hw
    exact .inl ⟨n, ch, a, b, by rw [he, onCmd_idle h]⟩

/-- R112's table: the messages between two wire traces are as many as the status calls for. -/
def CountFitsStatus (c : RespCode) (before after : List WireEntry) : Prop :=
  ∃ m, (c = 1 ∨ c = 2 ∨ c = 4) ∧ after = before ∨ (c = 0 ∨ c = 3) ∧ after = before ++ [.msg m]

/-- How far the one command word `w`, offered in `s₀` and no FRAME, has come in `s`: what is put since `s₀` depends on
`FSM` alone until the status is known, and on the status from then on (R112). -/
def SingleProgress (s₀ : State) (w : CmdWord) (s : State) : Prop :=
  match s.fsm with
  | .idle =>
    s.cmdOffer = [w] ∧ s.wire = s₀.wire ∧ s.respTrace = s₀.respTrace ∨
    s.cmdOffer = [] ∧ ∃ c, s.respTrace = s₀.respTrace ++ [.status c] ∧ CountFitsStatus c s₀.wire s.wire
  | .issue => s.cmdOffer = [] ∧ s.role = .single ∧ s.wire = s₀.wire ∧ s.respTrace = s₀.respTrace
  | .wait =>
    s.cmdOffer = [] ∧ s.role = .single ∧ (∃ m, s.wire = s₀.wire ++ [.msg m]) ∧ s.respTrace = s₀.respTrace
  | .getu => False
  | .drain => False
  | .resp => s.cmdOffer = [] ∧ CountFitsStatus s.status s₀.wire s.wire ∧ s.respTrace = s₀.respTrace

section
variable {s₀ s t : State} {w : CmdWord}

/-- The acceptance leaves a message due, or a status with no message put. -/
theorem SingleProgress.accepted (hw : ∀ ch, decodeCmd w ≠ .frame ch) (hf : s.fsm = .idle) (hq : s.cmdOffer = [w])
    (hwire : s.wire = s₀.wire) (hresp : s.respTrace = s₀.respTrace) (h : exec (decodeCmd w) s = .next t) :
    SingleProgress s₀ w t ∧ t.txtOffer = s.txtOffer := by
  have taken : (takeCmd s).cmdOffer = [] := by rw [takeCmd_cmdOffer, hq, List.tail_cons]
  rcases exec_decodeCmd_notFrame hf hw with ⟨n, ch, a, b, he⟩ | he
  · obtain rfl : acceptSingle n ch a b (takeCmd s) = t := Host.Outcome.next.inj (he.symm.trans h)
    cases hr : rangeOk ch a b with
    | true =>
      rw [acceptSingle_inRange hr]
      exact ⟨⟨taken, rfl, hwire, hresp⟩, rfl⟩
    | false =>
      rw [acceptSingle_outOfRange hr]
      exact ⟨⟨taken, ⟨0, .inl ⟨.inl rfl, hwire⟩⟩, hresp⟩, rfl⟩
  · obtain rfl : acceptIllegal (takeCmd s) = t := Host.Outcome.next.inj (he.symm.trans h)
    exact ⟨⟨taken, ⟨0, .inl ⟨.inr (.inr rfl), hwire⟩⟩, hresp⟩, rfl⟩

/-- A command word at CMD is the one command, and its acceptance is progress. -/
theorem SingleProgress.exec_cmd {v : CmdWord} {rest : List CmdWord} (hw : ∀ ch, decodeCmd w ≠ .frame ch)
    (hp : SingleProgress s₀ w s) (hf : s.fsm = .idle) (hq : s.cmdOffer = v :: rest)
    (h : exec (decodeCmd v) s = .next t) : SingleProgress s₀ w t ∧ t.txtOffer = s.txtOffer := by
  simp only [SingleProgress, hf] at hp
  rcases hp with ⟨hq', hwire, hresp⟩ | ⟨hq', -⟩
  · obtain ⟨rfl, -⟩ : v = w ∧ rest = [] := by simpa using hq.symm.trans hq'
    exact SingleProgress.accepted hw hf hq' hwire hresp h
  · cases hq.symm.trans hq'

/-- Every framer event is progress of the one command, and none takes a text item. -/
theorem SingleProgress.framerEvent (hw : ∀ ch, decodeCmd w ≠ .frame ch) (hp : SingleProgress s₀ w s)
    (e : FramerEvent s t) : SingleProgress s₀ w t ∧ t.txtOffer = s.txtOffer := by
  cases e with
  | waits => exact ⟨hp, rfl⟩
  | single _ _ _ _ _ _ hf hq _ he => exact hp.exec_cmd hw hf hq he
  | frame _ _ _ hf hq he => exact hp.exec_cmd hw hf hq he
  | illegal _ _ hf hq he => exact hp.exec_cmd hw hf hq he
  | linkClosed hf =>
    simp only [SingleProgress, hf] at hp
    obtain ⟨hq, hrole, hwire, hresp⟩ := hp
    rw [fail_eq, hrole]
    exact ⟨⟨hq, ⟨0, .inl ⟨.inr (.inl rfl), hwire⟩⟩, hresp⟩, rfl⟩
  | issued hf =>
    simp only [SingleProgress, hf] at hp
    obtain ⟨hq, hrole, hwire, hresp⟩ := hp
    rw [issue_eq, hwire]
    exact ⟨⟨hq, hrole, ⟨s.msg, rfl⟩, hresp⟩, rfl⟩
  | counted c _ hf =>
    simp only [SingleProgress, hf] at hp
    obtain ⟨hq, hrole, ⟨m, hwire⟩, hresp⟩ := hp
    rw [takeCount_eq, hrole]
    split
    · exact ⟨⟨hq, ⟨m, .inr ⟨.inl rfl, hwire⟩⟩, hresp⟩, rfl⟩
    · exact ⟨⟨hq, ⟨m, .inr ⟨.inr rfl, hwire⟩⟩, hresp⟩, rfl⟩
  | unit _ _ hf => simp only [SingleProgress, hf] at hp
  | textEnd _ _ hf => simp only [SingleProgress, hf] at hp
  | drained _ _ hf => simp only [SingleProgress, hf] at hp
  | drainEnd _ _ hf => simp only [SingleProgress, hf] at hp
  | responded hf =>
    simp only [SingleProgress, hf] at hp
    obtain ⟨hq, hcount, hresp⟩ := hp
    rw [respond_eq, hresp]
    exact ⟨.inr ⟨hq, s.status, rfl, hcount⟩, rfl⟩

/-- A quiet move of another agent leaves the one command where it is, and brings its own text. -/
theorem SingleProgress.applyMove {m : Move} (hm : quietMove m = true) (hp : SingleProgress s₀ w s) :
    SingleProgress s₀ w (applyMove m s) ∧ (applyMove m s).txtOffer = s.txtOffer ++ moveText m := by
  cases m with
  | assertReset => cases hm
  | offerCmd => cases hm
  | offerTxt => exact ⟨hp, rfl⟩
  | _ => exact ⟨hp, (List.append_nil _).symm⟩

/-- A step with a quiet move is progress of the one command, and adds to TXT the text the move brings. -/
theorem SingleProgress.step (hw : ∀ ch, decodeCmd w ≠ .frame ch) (hm : quietMove (nextMove s) = true)
    (hp : SingleProgress s₀ w s) (h : step s = .next t) :
    SingleProgress s₀ w t ∧ t.txtOffer = s.txtOffer ++ moveText (nextMove s) := by
  have popped : SingleProgress s₀ w (popMove s) := hp
  rcases step_cases h with ⟨hmove, -, e⟩ | ⟨-, rfl⟩
  · obtain ⟨ht, htxt⟩ := popped.framerEvent hw e
    rw [hmove]
    exact ⟨ht, htxt.trans (List.append_nil _).symm⟩
  · exact popped.applyMove hm

end

end Sys2Proof.Machine
end

section
/-! PROOFS. The statements of the family of spec/41_channel.md. -/
namespace Sys2Proof.Machine

/-- Settles O52, by the progress of the one command, kept by every step of a quiet schedule and read off in IDLE. -/
theorem statusFixesTheMessageCount : Obligations.StatusFixesTheMessageCount := by
  intro k s t w hidle hoffer hquiet hw hrun htidle htoffer
  have start : SingleProgress s w s := by simp [SingleProgress, hidle, hoffer]
  obtain ⟨hp, htxt⟩ := run_keeps_quiet (P := fun x _ u => SingleProgress s w u ∧ u.txtOffer = s.txtOffer ++ x)
    (fun x _ u v ⟨hu, hutxt⟩ hm hv => by
      obtain ⟨hv', hvtxt⟩ := hu.step hw hm hv
      exact ⟨hv', by rw [hvtxt, hutxt, List.append_assoc]⟩)
    hquiet ⟨start, (List.append_nil _).symm⟩ hrun
  simp only [SingleProgress, htidle, htoffer] at hp
  rcases hp with ⟨hpending, -⟩ | ⟨-, c, hresp, m, hcount⟩
  · cases hpending
  · exact ⟨c, m, hresp, htxt, hcount⟩

/-- Settles O32, by the link check and the abort procedure. -/
theorem linkCheckFailsTheMessage : Obligations.LinkCheckFailsTheMessage := by
  intro s hstarted hmove hissue hclosed
  rw [step_framer hstarted hmove, framerStep_linkClosed (s := popMove s) hissue hclosed, fail_eq, abortTarget_eq]
  rfl

/-- Settles O33: a wire message in `MSG` is a row of MSG, so the issue step puts it. -/
theorem issueStepPutsTheMessage : Obligations.IssueStepPutsTheMessage := by
  intro s hstarted hmove hissue hopen hready hmsg
  rw [step_framer hstarted hmove, framerStep_issue_wireMsg (s := popMove s) hissue hopen hready hmsg, issue_eq]
  rfl

/-- Settles O34, by the two outcomes of the accepted-count step and the bits of the high byte's message. -/
theorem acceptedCountStep : Obligations.AcceptedCountStep := by
  intro s c rest hstarted hmove hwait hacc
  have counted : step s = .next (takeCount c (popMove s)) :=
    (step_framer hstarted hmove).trans (framerStep_count (s := popMove s) hwait hacc)
  obtain rfl : s.accOffer.tail = rest := by rw [hacc, List.tail_cons]
  have accepted {r : Role} (hc : c = 3) (hr : s.role = r) : step s = .next (continueRole r (takeAcc (popMove s))) := by
    rw [counted, takeCount_accepted hc, popMove_role, hr]
  refine ⟨fun hc hr => accepted hc hr, fun hc hr => accepted hc hr, fun hc hr => ?_, fun hc hr => accepted hc hr,
    fun hc hr => accepted hc hr, fun hc => ?_⟩
  · rw [accepted hc hr, ← highMsg_bits]; rfl
  · rw [counted, takeCount_refused hc, fail_eq, abortTarget_eq]; rfl

/-- Settles O36, by the response step. -/
theorem responseStepReturnsToIdle : Obligations.ResponseStepReturnsToIdle := by
  intro s hstarted hmove hresp hhost
  have responded : step s = .next (respond (popMove s)) :=
    (step_framer hstarted hmove).trans (framerStep_respond (s := popMove s) hresp hhost)
  exact ⟨_, responded, rfl, respond_eq (popMove s)⟩

end Sys2Proof.Machine
end

section
/-! PROOFS. The statements of the family of spec/42_transport.md: a text item inside a frame, the message it makes due,
and the host's result of `send`. -/
namespace Sys2Proof.Machine

/-! ## A text item inside a frame (R122, R124) -/

/-- In GETU the framer takes the item and does what it means inside a frame (R122). -/
theorem onTxt_getu {s : State} (h : s.fsm = .getu) (inFrame inDrain : State → State) :
    onTxt inFrame inDrain s = inFrame (takeTxt s) := by
  rw [onTxt, h]

/-- In GETU a code unit makes its low byte's message due (R122). -/
theorem exec_unitItem_getu {s : State} (h : s.fsm = .getu) (u : CodeUnit) :
    exec (.unitItem u) s = .next (load .dlo (lowMsg s.ch u) (setUnit u (takeTxt s))) :=
  congrArg Host.Outcome.next (onTxt_getu h _ _)

/-- In GETU END makes the end marker due, whatever its low 16 bits are (R65, R124). -/
theorem exec_endItem_getu {s : State} (h : s.fsm = .getu) (x : CodeUnit) :
    exec (.endItem x) s = .next (load .endMark (endMarker s.ch) (takeTxt s)) :=
  congrArg Host.Outcome.next (onTxt_getu h _ _)

/-- The low byte's message by the bits of the code unit (R97, R122). -/
theorem lowMsg_bits (ch : Channel) (u : CodeUnit) :
    lowMsg ch u = 0xB#4 ++ ch ++ 0#7 ++ u.extractLsb 7 7 ++ 0#1 ++ u.extractLsb 6 0 := by
  rw [lowMsg, lowFields_eq, dataMsg_bits]
  rfl

/-- Settles O26, by the two text items in GETU and the bits of the low byte's message. -/
theorem textItemsInsideAFrame : Obligations.TextItemsInsideAFrame := by
  intro s hgetu
  refine ⟨fun u => ?_, fun x => ?_⟩
  · rw [exec_unitItem_getu hgetu, lowMsg_bits]; rfl
  · rw [exec_endItem_getu hgetu, endMarker, kindNibble]; rfl

/-! ## The host's result (R111, R128) -/

/-- Success is the status OK and no other (R70, R111). -/
@[simp] theorem hostSuccess_iff (c : RespCode) : hostSuccess c = true ↔ c = 0 := beq_iff_eq

/-- `send` gives the text back on OK (R128). -/
theorem hostSendResult_ok {c : RespCode} (h : c = 0) (text : List CodeUnit) : hostSendResult text c = text :=
  if_pos ((hostSuccess_iff c).mpr h)

/-- `send` gives the empty text after any failure (R128). -/
theorem hostSendResult_failed {c : RespCode} (h : c ≠ 0) (text : List CodeUnit) : hostSendResult text c = [] :=
  if_neg (mt (hostSuccess_iff c).mp h)

/-- Sending the empty text has the same result whatever the status (R128). -/
theorem hostSendResult_empty (c : RespCode) : hostSendResult [] c = [] :=
  ite_self []

/-- Settles O60, by the result on OK, after a failure and for the empty text. -/
theorem hostResultOfSend : Obligations.HostResultOfSend := by
  refine ⟨fun text c => ⟨fun h => ?_, fun h => ?_⟩, fun c d => ?_, ?_, fun c h => ?_⟩
  · exact hostSendResult_ok h text
  · exact hostSendResult_failed h text
  · rw [hostSendResult_empty, hostSendResult_empty]
  · exact (hostSuccess_iff 0).mpr rfl
  · exact Bool.eq_false_iff.mpr (mt (hostSuccess_iff c).mp h)

end Sys2Proof.Machine
end

section
/-! PROOFS. The statements of the family of spec/60_exceptions.md: what the abort procedure and the rejections at
acceptance write, and what the framer still does in DRAIN and RESP, where the command's status is settled. -/
namespace Sys2Proof.Machine

/-! ## The abort procedure and the rejections at acceptance (R143) -/

/-- An abort in a role of a frame whose END item is still to come drains the text (R143). -/
theorem fail_drains {s : State} (h : s.role = .start ∨ s.role = .dlo ∨ s.role = .dhi) (e : RespCode) :
    fail e s = { s with status := e, fsm := .drain } := by
  rw [fail_eq, abortTarget_eq, if_pos h]

/-- An abort in any other role goes to the response (R143). -/
theorem fail_responds {s : State} (h : s.role = .single ∨ s.role = .endMark) (e : RespCode) :
    fail e s = { s with status := e, fsm := .resp } := by
  have noText : ¬ (s.role = .start ∨ s.role = .dlo ∨ s.role = .dhi) := by
    rcases h with h | h <;> simp [h]
  rw [fail_eq, abortTarget_eq, if_neg noText]

/-- The range check fails where a field is above its bound (R95). -/
theorem rangeOk_eq_false_iff (ch a b : Byte) : rangeOk ch a b = false ↔ 15 < ch ∨ 127 < a ∨ 127 < b := by
  rw [Bool.eq_false_iff, ne_eq, rangeOk_iff]
  bv_omega

/-- A FRAME command out of range fails with RANGE_ERR and drains its text, with `CH` left alone (R95, R120). -/
theorem acceptFrame_outOfRange {ch : Byte} (h : 15 < ch) (s : State) :
    acceptFrame ch s = { s with status := statusRangeErr, fsm := .drain } := by
  rw [acceptFrame, (rangeOk_eq_false_iff ch 0#8 0#8).mpr (.inl h)]
  rfl

/-- Settles O35, by the two targets of an abort and the three rejections, none of which reads `ROLE`. -/
theorem failSavesOnlyTheStatus : Obligations.FailSavesOnlyTheStatus := by
  intro e s
  refine ⟨fun h => fail_drains h e, fun h => fail_responds h e, rfl, fun nib ch a b h => ?_, fun ch h => ?_⟩
  · exact acceptSingle_outOfRange ((rangeOk_eq_false_iff ch a b).mpr h) nib s
  · exact acceptFrame_outOfRange h s

/-! ## After the status is settled (R110, R126, R147) -/

/-- In DRAIN with no text item offered the framer waits (R167). -/
theorem framerStep_drainWaits {s : State} (h : s.fsm = .drain) (hq : s.txtOffer = []) :
    framerStep s = .next s := by
  simp only [framerStep, portWord, ownStep, h, hq, List.head?_nil, Option.map_none]

/-- In DRAIN the framer takes the item and does what it means there (R126). -/
theorem onTxt_drain {s : State} (h : s.fsm = .drain) (inFrame inDrain : State → State) :
    onTxt inFrame inDrain s = inDrain (takeTxt s) := by
  rw [onTxt, h]

/-- In DRAIN a code unit is taken and discarded (R126). -/
theorem framerStep_drained {s : State} {x : TextItem} {rest : List TextItem} (h : s.fsm = .drain)
    (hq : s.txtOffer = x :: rest) (hx : txtEnd x = false) : framerStep s = .next (takeTxt s) := by
  rw [framerStep_text (.inr h) hq, decodeTxt, hx]
  exact congrArg Host.Outcome.next (onTxt_drain h _ _)

/-- In DRAIN END makes the response due (R126). -/
theorem framerStep_drainEnd {s : State} {x : TextItem} {rest : List TextItem} (h : s.fsm = .drain)
    (hq : s.txtOffer = x :: rest) (hx : txtEnd x = true) : framerStep s = .next (setFsm .resp (takeTxt s)) := by
  rw [framerStep_text (.inr h) hq, decodeTxt, hx]
  exact congrArg Host.Outcome.next (onTxt_drain h _ _)

/-- In RESP the framer waits for the host (R109, R167). -/
theorem framerStep_respWaits {s : State} (h : s.fsm = .resp) (hr : s.hostReady = false) :
    framerStep s = .next s := by
  simp only [framerStep, portWord, ownStep, h, hr, Bool.false_eq_true, if_false]

/-- The updates by which the framer brings a command with a settled status to its end: it waits, it takes text without
sending it, it goes to the response, and it responds (R110, R126). -/
inductive EndingUpdate : (State → State) → Prop where
  | waits : EndingUpdate fun s => s
  | drained : EndingUpdate takeTxt
  | drainEnd : EndingUpdate fun s => setFsm .resp (takeTxt s)
  | responded : EndingUpdate respond

namespace EndingUpdate
variable {f : State → State}

/-- No such update writes `STATUS`, puts a message or takes a count (R147). -/
theorem keeps (e : EndingUpdate f) (s : State) :
    (f s).status = s.status ∧ (f s).wire = s.wire ∧ (f s).accOffer = s.accOffer := by
  cases e with
  | waits | drained | drainEnd | responded => exact ⟨rfl, rfl, rfl⟩

/-- From DRAIN and RESP such an update leads to DRAIN, RESP or IDLE. -/
theorem fsm_cases (e : EndingUpdate f) {s : State} (h : s.fsm = .drain ∨ s.fsm = .resp) :
    (f s).fsm = .drain ∨ (f s).fsm = .resp ∨ (f s).fsm = .idle := by
  cases e with
  | waits | drained => exact h.imp_right .inl
  | drainEnd => exact .inr (.inl rfl)
  | responded => exact .inr (.inr rfl)

/-- No such update reads or writes `LINK_OPEN` (R147). -/
theorem withLink (e : EndingUpdate f) (s : State) (b : Bool) :
    f { s with linkOpen := b } = { f s with linkOpen := b } := by
  cases e with
  | waits | drained | drainEnd | responded => rfl

end EndingUpdate

/-- In DRAIN and RESP the framer's step is one of the ending updates, the same one whatever `LINK_OPEN` is. -/
theorem framerStep_ending {s : State} (h : s.fsm = .drain ∨ s.fsm = .resp) :
    ∃ f, EndingUpdate f ∧ ∀ b, framerStep { s with linkOpen := b } = .next (f { s with linkOpen := b }) := by
  rcases h with hdrain | hresp
  · cases s.txtOffer with
    | nil => exact ⟨_, .waits, fun b => framerStep_drainWaits hdrain rfl⟩
    | cons x rest =>
      cases hx : txtEnd x with
      | false => exact ⟨_, .drained, fun b => framerStep_drained hdrain rfl hx⟩
      | true => exact ⟨_, .drainEnd, fun b => framerStep_drainEnd hdrain rfl hx⟩
  · cases s.hostReady with
    | false => exact ⟨_, .waits, fun b => framerStep_respWaits hresp rfl⟩
    | true => exact ⟨_, .responded, fun b => framerStep_respond hresp rfl⟩

/-- Settles O47: the step is an ending update, which keeps what it has to keep and commutes with any other
`LINK_OPEN`. -/
theorem noFailureAfterAFailure : Obligations.NoFailureAfterAFailure := by
  intro s hstarted hmove hending
  obtain ⟨f, hf, hframer⟩ := framerStep_ending (s := popMove s) hending
  obtain ⟨hstatus, hwire, hacc⟩ := hf.keeps (popMove s)
  have stepped (b : Bool) : step { s with linkOpen := b } = .next (f { popMove s with linkOpen := b }) :=
    (step_framer (s := { s with linkOpen := b }) hstarted hmove).trans (hframer b)
  refine ⟨f (popMove s), stepped s.linkOpen, hstatus, hwire, hacc, hf.fsm_cases hending, fun b => ?_⟩
  rw [stepped b, hf.withLink]

end Sys2Proof.Machine
end

section
/-! PROOFS. The statement of the family of spec/70_reset_and_hazards.md: the reset event as a step of the model. -/
namespace Sys2Proof.Machine

section
variable {s : State} {m : Move} {rest : List Move}

/-- The first move of a schedule is the next one. -/
theorem nextMove_of_schedule_eq (h : s.schedule = m :: rest) : nextMove s = m := by
  rw [nextMove, h]

/-- A move of another agent runs whether or not the framer has started: only a framer move reads `started`. -/
theorem step_of_nextMove_ne_framer (h : nextMove s ≠ .framer) :
    step s = .next (applyMove (nextMove s) (popMove s)) := by
  unfold step
  split
  · next hm => exact absurd hm h
  · rfl

/-- Asserting `RESET` takes the reset event as one step, in any state (R160). -/
theorem step_assertReset (h : s.schedule = .assertReset :: rest) : step s = .next (resetEvent (popMove s)) := by
  have hm : nextMove s = .assertReset := nextMove_of_schedule_eq h
  have hne : nextMove s ≠ .framer := by simp [hm]
  rw [step_of_nextMove_ne_framer hne, hm, applyMove]

end

/-- Settles O19: the step is the reset event, whose fields are read off, and it leaves the framer in IDLE. -/
theorem resetEventInAnyState : Obligations.ResetEventInAnyState := by
  intro s rest h
  obtain ⟨ready, -⟩ := signals_idle (resetEvent_fsm (popMove s))
  have schedule_eq : (resetEvent (popMove s)).schedule = rest := by simp [h]
  exact ⟨_, step_assertReset h, rfl, rfl, rfl, rfl, rfl, rfl, rfl, rfl, rfl, rfl, ready, rfl, rfl, schedule_eq⟩

end Sys2Proof.Machine
end

section
/-! PROOFS. Decoder and encoder of the three ports against each other (spec/30_encoding.md R60 to R68): the fields of a
word written from its fields, and a word written again from the fields read in it. -/
namespace Sys2Proof.Machine

/-! ## The fields of an encoded word -/

section
variable (op : BitVec 4) (kind : BitVec 2) (ch a b : Byte)

/-- The bits of a command word, field by field from the lowest (R60). -/
theorem getLsbD_cmdWord (i : Nat) : (cmdWord op kind ch a b).getLsbD i =
    if i < 8 then b.getLsbD i
    else if i < 16 then a.getLsbD (i - 8)
    else if i < 24 then ch.getLsbD (i - 16)
    else if i < 26 then false
    else if i < 28 then kind.getLsbD (i - 26)
    else op.getLsbD (i - 28) := by
  simp only [cmdWord, BitVec.getLsbD_append, Nat.sub_sub]
  grind

/-- A field that starts at bit `start` is `x` when the word holds the bits of `x` there. -/
theorem extractLsb'_eq_of_bits {n w start : Nat} {x : BitVec n} {word : BitVec w}
    (h : ∀ i < n, word.getLsbD (start + i) = x.getLsbD i) : word.extractLsb' start n = x := by
  apply BitVec.eq_of_getLsbD_eq
  intro i hi
  simp [hi, h i hi]

@[simp] theorem cmdOp_cmdWord : cmdOp (cmdWord op kind ch a b) = op :=
  extractLsb'_eq_of_bits fun i hi => by rw [getLsbD_cmdWord]; grind

@[simp] theorem cmdKind_cmdWord : cmdKind (cmdWord op kind ch a b) = kind :=
  extractLsb'_eq_of_bits fun i hi => by rw [getLsbD_cmdWord]; grind

@[simp] theorem cmdRsv_cmdWord : cmdRsv (cmdWord op kind ch a b) = 0#2 :=
  extractLsb'_eq_of_bits fun i hi => by rw [getLsbD_cmdWord]; grind

@[simp] theorem cmdCh_cmdWord : cmdCh (cmdWord op kind ch a b) = ch :=
  extractLsb'_eq_of_bits fun i hi => by rw [getLsbD_cmdWord]; grind

@[simp] theorem cmdA_cmdWord : cmdA (cmdWord op kind ch a b) = a :=
  extractLsb'_eq_of_bits fun i hi => by rw [getLsbD_cmdWord]; grind

@[simp] theorem cmdB_cmdWord : cmdB (cmdWord op kind ch a b) = b :=
  extractLsb'_eq_of_bits fun i hi => by rw [getLsbD_cmdWord]; grind

end

/-- The bits of a text item: the unit below the end bit (R65). -/
theorem getLsbD_txtItem (e : BitVec 1) (u : CodeUnit) (i : Nat) :
    (txtItem e u).getLsbD i = if i < 16 then u.getLsbD i else e.getLsbD (i - 16) := by
  simp only [txtItem, BitVec.getLsbD_append]

@[simp] theorem txtEnd_txtItem (e : BitVec 1) (u : CodeUnit) : txtEnd (txtItem e u) = e.getLsbD 0 :=
  getLsbD_txtItem e u 16

@[simp] theorem txtUnit_txtItem (e : BitVec 1) (u : CodeUnit) : txtUnit (txtItem e u) = u :=
  extractLsb'_eq_of_bits fun i hi => by rw [getLsbD_txtItem]; grind

section
variable (n : Nibble) (ch : Channel) (a b : Data7)

/-- The bits of a wire message, field by field from the lowest (R67). -/
theorem getLsbD_wireWord (i : Nat) : (wireWord n ch a b).getLsbD i =
    if i < 7 then b.getLsbD i
    else if i < 8 then false
    else if i < 15 then a.getLsbD (i - 8)
    else if i < 16 then false
    else if i < 20 then ch.getLsbD (i - 16)
    else n.getLsbD (i - 20) := by
  simp only [wireWord, BitVec.getLsbD_append, Nat.sub_sub]
  grind

@[simp] theorem wireChannel_wireWord : wireChannel (wireWord n ch a b) = ch :=
  extractLsb'_eq_of_bits fun i hi => by rw [getLsbD_wireWord]; grind

@[simp] theorem wireA_wireWord : wireA (wireWord n ch a b) = a :=
  extractLsb'_eq_of_bits fun i hi => by rw [getLsbD_wireWord]; grind

@[simp] theorem wireB_wireWord : wireB (wireWord n ch a b) = b :=
  extractLsb'_eq_of_bits fun i hi => by rw [getLsbD_wireWord]; grind

end

/-! ## A word from the fields read in it -/

/-- A command word with the reserved bits clear is the word of its own fields (R60). -/
theorem cmdWord_fields {w : CmdWord} (h : cmdRsv w = 0#2) :
    cmdWord (cmdOp w) (cmdKind w) (cmdCh w) (cmdA w) (cmdB w) = w := by
  have reserved : ∀ i, 24 ≤ i → i < 26 → w.getLsbD i = false := fun i hlo hhi => by
    have bit := congrArg (·.getLsbD (i - 24)) h
    simpa [cmdRsv, show i - 24 < 2 by omega, show 24 + (i - 24) = i by omega] using bit
  apply BitVec.eq_of_getLsbD_eq
  intro i hi
  rw [getLsbD_cmdWord]
  simp only [cmdOp, cmdKind, cmdCh, cmdA, cmdB, BitVec.getLsbD_extractLsb']
  grind

/-- A text item is its end bit and its unit (R65). -/
theorem txtItem_fields (t : TextItem) : txtItem (BitVec.ofBool (txtEnd t)) (txtUnit t) = t := by
  apply BitVec.eq_of_getLsbD_eq
  intro i hi
  rw [getLsbD_txtItem]
  by_cases hlo : i < 16
  · simp [txtUnit, hlo]
  · obtain rfl : i = 16 := by omega
    simp [txtEnd]

/-! ## Decoder and encoder -/

/-- A RAW word decodes to the row of its status kind (R61, R62). -/
theorem decodeCmd_raw {k : StatusKind} {kind : BitVec 2} (hk : kindOf kind = some k) (ch a b : Byte) :
    decodeCmd (cmdWord 0x1#4 kind ch a b) = rawOf k ch a b := by
  simp [decodeCmd, hk]

/-- Every well-formed instruction is read back from its word. -/
theorem decode_encode (i : Instr) (h : i.WellFormed) : decode (encode i) = .ok i := by
  cases i with
  | rawNoteOn ch a b => exact congrArg Except.ok (decodeCmd_raw (k := .noteOn) rfl ch a b)
  | rawNoteOff ch a b => exact congrArg Except.ok (decodeCmd_raw (k := .noteOff) rfl ch a b)
  | rawControlChange ch a b => exact congrArg Except.ok (decodeCmd_raw (k := .controlChange) rfl ch a b)
  | noteOn ch a b | noteOff ch a b | cc ch a b | frame ch => simp [encode, decode, decodeCmd]
  | illegal w => exact congrArg Except.ok ((decodeCmd_eq_illegal_iff w).mpr h)
  | unitItem u | endItem x => simp [encode, decode, decodeTxt]
  | wireNoteOn ch a b | wireNoteOff ch a b | wireControlChange ch a b => simp [encode, decode, decodeWire_eq]

/-- The `kind` code of a status kind (R62). -/
def kindCode : StatusKind → BitVec 2
  | .noteOn => 0#2
  | .noteOff => 1#2
  | .controlChange => 2#2

theorem kindOf_eq_some_iff (kind : BitVec 2) (k : StatusKind) : kindOf kind = some k ↔ kind = kindCode k := by
  revert kind
  cases k <;> decide

/-- The row of a status kind is written with the `kind` that selects it (R62). -/
theorem encode_rawOf {k : StatusKind} {kind : BitVec 2} (hk : kindOf kind = some k) (ch a b : Byte) :
    encode (rawOf k ch a b) = .cmd (cmdWord 0x1#4 kind ch a b) := by
  rw [(kindOf_eq_some_iff kind k).mp hk]
  cases k <;> rfl

/-- A word of CMD is written again from the instruction read in it. -/
theorem encode_decodeCmd (w : CmdWord) : encode (decodeCmd w) = .cmd w := by
  unfold decodeCmd
  simp only
  split
  next => rfl
  next hrsv =>
  have fields := cmdWord_fields (not_not.mp hrsv)
  split
  next hop =>
    rw [hop] at fields
    split
    next => rfl
    next k hk => rw [encode_rawOf hk, fields]
  split
  next => rfl
  next hkind =>
  rw [not_not.mp hkind] at fields
  split
  next hop => rw [hop] at fields; exact congrArg PortWord.cmd fields
  split
  next hop => rw [hop] at fields; exact congrArg PortWord.cmd fields
  split
  next hop => rw [hop] at fields; exact congrArg PortWord.cmd fields
  split
  next hop =>
    split
    next => rfl
    next hab =>
      obtain ⟨ha, hb⟩ : cmdA w = 0#8 ∧ cmdB w = 0#8 := by simpa using hab
      rw [hop, ha, hb] at fields
      exact congrArg PortWord.cmd fields
  next => rfl

/-- The decoder of CMD answers well-formed instructions only (R64). -/
theorem wellFormed_decodeCmd (w : CmdWord) : (decodeCmd w).WellFormed := by
  rcases decodeCmd_cases w with ⟨hw, hd⟩ | ⟨-, ch, a, b, hd⟩
  · rw [hd]; exact hw
  · rcases hd with hd | hd | hd | hd | hd | hd | hd <;> rw [hd] <;> rfl

/-- An item of TXT is written again from the instruction read in it, which is well-formed. -/
theorem encode_decodeTxt (t : TextItem) : encode (decodeTxt t) = .txt t ∧ (decodeTxt t).WellFormed := by
  have fields := txtItem_fields t
  unfold decodeTxt
  split
  next hend => rw [hend] at fields; exact ⟨congrArg PortWord.txt fields, rfl⟩
  next hend => rw [Bool.eq_false_iff.mpr hend] at fields; exact ⟨congrArg PortWord.txt fields, rfl⟩

/-- A wire message is written again from the row read in it, which is well-formed. -/
theorem encode_of_decodeWire {m : WireMsg} {i : Instr} (h : decodeWire m = .ok i) :
    encode i = .msg m ∧ i.WellFormed := by
  rw [decodeWire_eq] at h
  split at h
  next => cases h
  next htop =>
  have fields := wireWord_fields m (Bool.eq_true_of_not_eq_false htop)
  split at h
  next h9 => cases h; rw [h9] at fields; exact ⟨congrArg PortWord.msg fields, rfl⟩
  split at h
  next h8 => cases h; rw [h8] at fields; exact ⟨congrArg PortWord.msg fields, rfl⟩
  split at h
  next hB => cases h; rw [hB] at fields; exact ⟨congrArg PortWord.msg fields, rfl⟩
  next => cases h

/-- MSG has a row for the words of the wire format and for no other (R67, R68). -/
theorem decodeWire_ok_iff (m : WireMsg) : (∃ i, decodeWire m = .ok i) ↔ wireMsgOk m = true := by
  refine ⟨fun ⟨i, h⟩ => ?_, decodeWire_of_wireMsgOk⟩
  rw [decodeWire_eq] at h
  split at h
  next => cases h
  next htop =>
  rw [Bool.not_eq_false] at htop
  split at h
  next h9 => simp [wireMsgOk, htop, h9]
  split at h
  next h8 => simp [wireMsgOk, htop, h8]
  split at h
  next hB => simp [wireMsgOk, htop, hB]
  next => cases h

/-- The wire format by the bits of the word (R67, R68). -/
theorem wireMsgOk_iff_bits (m : WireMsg) : wireMsgOk m = true ↔
    (m.extractLsb 23 20 = 0x8 ∨ m.extractLsb 23 20 = 0x9 ∨ m.extractLsb 23 20 = 0xB) ∧
    m[15] = false ∧ m[7] = false := by
  simp only [wireMsgOk, wireTopBitsClear, Bool.and_eq_true, Bool.or_eq_true, beq_iff_eq, Bool.not_eq_true', or_assoc]
  rfl

/-- Settles O2, by the fields of each row's word. -/
theorem everyInstructionRoundTrips : Obligations.EveryInstructionRoundTrips :=
  decode_encode

/-- Settles O3, by the word written again on each port. -/
theorem decodedWordsEncodeBack : Obligations.DecodedWordsEncodeBack := by
  intro p i h
  cases p with
  | cmd w =>
    obtain rfl : decodeCmd w = i := Except.ok.inj h
    exact ⟨encode_decodeCmd w, wellFormed_decodeCmd w⟩
  | txt t =>
    obtain rfl : decodeTxt t = i := Except.ok.inj h
    exact encode_decodeTxt t
  | msg m => exact encode_of_decodeWire h

/-- Settles O6, by the wire format and its bits. -/
theorem wireWordsAreTheWireFormat : Obligations.WireWordsAreTheWireFormat :=
  fun m => (decodeWire_ok_iff m).trans (wireMsgOk_iff_bits m)

/-- Settles O1, by evaluation of the decoders on the thirteen words. -/
theorem writtenWordsDecode : Obligations.WrittenWordsDecode := by
  exact ⟨rfl, rfl, rfl, rfl, rfl, rfl, rfl, rfl, rfl, rfl, rfl, rfl, rfl⟩

end Sys2Proof.Machine
end

section
/-! PROOFS. What the shared operations and the framer's events leave unchanged, and that every instruction's meaning
answers a next state. -/
namespace Sys2Proof.Machine

/-- The acceptance of a single command writes none of these. -/
@[simp] theorem acceptSingle_keeps (n : Nibble) (ch a b : Byte) (s : State) :
    (acceptSingle n ch a b s).ch = s.ch ∧ (acceptSingle n ch a b s).unit = s.unit ∧
    (acceptSingle n ch a b s).linkOpen = s.linkOpen ∧ (acceptSingle n ch a b s).started = s.started ∧
    (acceptSingle n ch a b s).cmdOffer = s.cmdOffer ∧ (acceptSingle n ch a b s).txtOffer = s.txtOffer ∧
    (acceptSingle n ch a b s).accOffer = s.accOffer := by
  unfold acceptSingle
  split <;> simp

/-- The acceptance of a FRAME command writes none of these. -/
@[simp] theorem acceptFrame_keeps (ch : Byte) (s : State) :
    (acceptFrame ch s).unit = s.unit ∧ (acceptFrame ch s).linkOpen = s.linkOpen ∧
    (acceptFrame ch s).started = s.started ∧ (acceptFrame ch s).cmdOffer = s.cmdOffer ∧
    (acceptFrame ch s).txtOffer = s.txtOffer ∧ (acceptFrame ch s).accOffer = s.accOffer := by
  unfold acceptFrame
  split <;> simp

/-- The accepted-count step takes one count and writes none of these. -/
@[simp] theorem takeCount_keeps (c : AckCount) (s : State) :
    (takeCount c s).ch = s.ch ∧ (takeCount c s).unit = s.unit ∧ (takeCount c s).linkOpen = s.linkOpen ∧
    (takeCount c s).started = s.started ∧ (takeCount c s).cmdOffer = s.cmdOffer ∧
    (takeCount c s).txtOffer = s.txtOffer ∧ (takeCount c s).accOffer = s.accOffer.tail := by
  unfold takeCount
  split
  · cases s.role <;> simp [continueRole]
  · simp [fail]

/-- No framer event starts the framer again or drives the link (R28, R163). -/
theorem FramerEvent.started_linkOpen {s t : State} (e : FramerEvent s t) :
    t.started = s.started ∧ t.linkOpen = s.linkOpen := by
  cases e with
  | single | frame | counted => simp
  | waits | illegal | linkClosed | issued | unit | textEnd | drained | drainEnd | responded => exact ⟨rfl, rfl⟩

/-- A framer event outside IDLE writes `CH` in no case (R130). -/
theorem FramerEvent.ch_eq {s t : State} (e : FramerEvent s t) (h : s.fsm ≠ .idle) : t.ch = s.ch := by
  cases e with
  | single _ _ _ _ _ _ hf | frame _ _ _ hf | illegal _ _ hf => exact absurd hf h
  | counted => simp
  | waits | linkClosed | issued | unit | textEnd | drained | drainEnd | responded => rfl

/-- A framer event puts nothing on the wire, or it is the issue step (R106). -/
theorem FramerEvent.wire_cases {s t : State} (e : FramerEvent s t) :
    t.wire = s.wire ∨ s.fsm = .issue ∧ s.linkOpen = true ∧ t = issue s := by
  cases e with
  | issued hf hl => exact .inr ⟨hf, hl, rfl⟩
  | single | frame | counted => simp
  | waits | illegal | linkClosed | unit | textEnd | drained | drainEnd | responded => exact .inl rfl

/-- No move of another agent starts the framer, but for the reset event (R163). -/
theorem applyMove_started {m : Move} (h : m ≠ .assertReset) (s : State) : (applyMove m s).started = s.started := by
  cases m with
  | assertReset => exact absurd rfl h
  | _ => rfl

/-- Every instruction's meaning answers a next state (R140). -/
theorem exec_next (i : Instr) (s : State) : ∃ t, exec i s = .next t := by
  cases i with
  | _ => exact ⟨_, rfl⟩

end Sys2Proof.Machine
end

section
/-! PROOFS. The invariant of the framer (`Inv`): the messages it makes due are wire messages, and each update by which a
step leaves the framer keeps it. -/
namespace Sys2Proof.Machine

/-! ## The messages that fall due -/

/-- A packed message with 7-bit fields has the wire format (R67). -/
theorem wireMsgOk_pack {n : Nibble} (hn : n = 0x9#4 ∨ n = 0x8#4 ∨ n = 0xB#4) (ch : Channel) (a b : Data7) :
    wireMsgOk (pack n ch (a.setWidth 8) (b.setWidth 8)) = true := by
  rw [pack_setWidth, wireMsgOk, wireNibble_wireWord, wireTopBitsClear_wireWord]
  rcases hn with rfl | rfl | rfl <;> rfl

theorem wireMsgOk_startMarker (ch : Channel) : wireMsgOk (startMarker ch) = true :=
  wireMsgOk_pack (.inl rfl) ch 0 0

theorem wireMsgOk_endMarker (ch : Channel) : wireMsgOk (endMarker ch) = true :=
  wireMsgOk_pack (.inr (.inl rfl)) ch 0 0

theorem wireMsgOk_dataMsg (ch : Channel) (f : Data7 × Data7) : wireMsgOk (dataMsg ch f) = true :=
  wireMsgOk_pack (.inr (.inr rfl)) ch f.1 f.2

/-- A data field in range keeps its value in seven bits (R95). -/
theorem setWidth_setWidth_of_le {a : Byte} (h : a.toNat ≤ 127) : (a.setWidth 7).setWidth 8 = a := by
  bv_omega

/-- The message of a single command in range has the wire format (R95, R101). -/
theorem wireMsgOk_pack_inRange {n : Nibble} (hn : n = 0x9#4 ∨ n = 0x8#4 ∨ n = 0xB#4) (c : Channel) {ch a b : Byte}
    (h : rangeOk ch a b = true) : wireMsgOk (pack n c a b) = true := by
  obtain ⟨-, ha, hb⟩ := (rangeOk_iff ch a b).mp h
  rw [← setWidth_setWidth_of_le ha, ← setWidth_setWidth_of_le hb]
  exact wireMsgOk_pack hn c _ _

/-! ## The updates that keep the invariant -/

namespace Inv
variable {s t : State}

/-- The invariant speaks of the framer's registers and the traces alone. -/
theorem of_registers_eq (h : Inv s) (heq : t.fsm = s.fsm ∧ t.role = s.role ∧ t.ch = s.ch ∧ t.msg = s.msg ∧
    t.unit = s.unit ∧ t.status = s.status ∧ t.wire = s.wire ∧ t.respTrace = s.respTrace) : Inv t := by
  obtain ⟨hfsm, hrole, hch, hmsg, hunit, hstatus, hwire, hresp⟩ := heq
  have hlive : msgLive t = msgLive s := by simp only [msgLive, hfsm]
  have hcalls : roleMessage t = roleMessage s := by simp only [roleMessage, hrole, hch, hunit]
  exact {
    status_code := hstatus ▸ h.status_code
    msg_packed := by rw [hlive, hmsg]; exact h.msg_packed
    msg_role := by rw [hlive, hmsg, hcalls]; exact h.msg_role
    msg_in_flight := by rw [hfsm, hwire, hmsg]; exact h.msg_in_flight
    drain_failed := by rw [hfsm, hstatus]; exact h.drain_failed
    wire_format := hwire ▸ h.wire_format
    resp_codes := hresp ▸ h.resp_codes }

theorem popMove (h : Inv s) : Inv (popMove s) := h.of_registers_eq ⟨rfl, rfl, rfl, rfl, rfl, rfl, rfl, rfl⟩

theorem takeCmd (h : Inv s) : Inv (takeCmd s) := h.of_registers_eq ⟨rfl, rfl, rfl, rfl, rfl, rfl, rfl, rfl⟩

theorem takeTxt (h : Inv s) : Inv (takeTxt s) := h.of_registers_eq ⟨rfl, rfl, rfl, rfl, rfl, rfl, rfl, rfl⟩

theorem takeAcc (h : Inv s) : Inv (takeAcc s) := h.of_registers_eq ⟨rfl, rfl, rfl, rfl, rfl, rfl, rfl, rfl⟩

/-- A state outside ISSUE, WAIT and DRAIN needs only legal codes and wire messages in the traces. -/
theorem setFsm_quiet (h : Inv s) {f : Fsm} (hf : f = .idle ∨ f = .getu ∨ f = .resp) : Inv (setFsm f s) := by
  have dead : msgLive (setFsm f s) = false := by rcases hf with rfl | rfl | rfl <;> rfl
  exact {
    status_code := h.status_code
    msg_packed := by simp [dead]
    msg_role := by simp [dead]
    msg_in_flight := by rcases hf with rfl | rfl | rfl <;> simp
    drain_failed := by rcases hf with rfl | rfl | rfl <;> simp
    wire_format := h.wire_format
    resp_codes := h.resp_codes }

/-- A message falls due: it has the wire format, and it is the one its role calls for, with the new `CH` and `UNIT`. -/
theorem load (h : Inv s) {r : Role} {m : WireMsg} (hm : wireMsgOk m = true) {ch : Channel} {unit : CodeUnit}
    (hr : ∀ m', roleMessage { s with role := r, ch := ch, unit := unit } = some m' → m = m') :
    Inv (load r m { s with ch := ch, unit := unit }) where
  status_code := h.status_code
  msg_packed := fun _ => hm
  msg_role := fun _ => hr
  msg_in_flight := by simp
  drain_failed := by simp
  wire_format := h.wire_format
  resp_codes := h.resp_codes

/-- A command ends with a legal code, which is a frame's failure where its text is drained (R126, R142). -/
theorem finish (h : Inv s) {c : RespCode} {f : Fsm} (hc : c ≤ 4#3) (hf : f = .drain ∨ f = .resp)
    (hdrain : f = .drain → c = statusRangeErr ∨ c = statusConnErr ∨ c = statusTransportErr) :
    Inv (finish c f s) where
  status_code := hc
  msg_packed := by rcases hf with rfl | rfl <;> simp [msgLive]
  msg_role := by rcases hf with rfl | rfl <;> simp [msgLive]
  msg_in_flight := by rcases hf with rfl | rfl <;> simp
  drain_failed := hdrain
  wire_format := h.wire_format
  resp_codes := h.resp_codes

/-- The abort procedure saves a frame's failure (R143). -/
theorem fail (h : Inv s) {e : RespCode} (he : e = statusConnErr ∨ e = statusTransportErr) : Inv (fail e s) := by
  have hc : e ≤ 4#3 := by rcases he with rfl | rfl <;> decide
  exact h.finish hc (by cases abortsFrame s.role <;> simp) fun _ => .inr he

/-- The issue step puts the message that is due (R32, R68, R106). -/
theorem issue (h : Inv s) (hs : s.fsm = .issue) : Inv (issue s) := by
  have hlive : msgLive s = true := by simp [msgLive, hs]
  exact {
    status_code := h.status_code
    msg_packed := fun _ => h.msg_packed hlive
    msg_role := fun _ => h.msg_role hlive
    msg_in_flight := fun _ => by simp [Machine.issue]
    drain_failed := by simp [Machine.issue]
    wire_format := fun m hm => by
      rcases List.mem_append.mp hm with hm | hm
      · exact h.wire_format m hm
      · obtain rfl : m = s.msg := by simpa using hm
        exact h.msg_packed hlive
    resp_codes := h.resp_codes }

/-- The response step puts a legal code (R110, R142). -/
theorem respond (h : Inv s) : Inv (respond s) := by
  have put : Inv (putRsp s.status s) := { h with
    resp_codes := fun c hc => by
      rcases List.mem_append.mp hc with hc | hc
      · exact h.resp_codes c hc
      · obtain rfl : c = s.status := by simpa using hc
        exact h.status_code }
  exact put.setFsm_quiet (.inl rfl)

/-- What follows an accepted message (R108). -/
theorem continueRole (h : Inv s) : Inv (continueRole s.role s) := by
  cases s.role with
  | single | endMark => exact h.finish (by decide) (.inr rfl) (by simp)
  | start | dhi => exact h.setFsm_quiet (.inr (.inl rfl))
  | dlo => exact h.load (wireMsgOk_dataMsg _ _) fun _ hm => Option.some.inj hm

/-- The accepted-count step (R107). -/
theorem takeCount (h : Inv s) (c : AckCount) : Inv (takeCount c s) := by
  unfold Machine.takeCount
  split
  · exact h.takeAcc.continueRole
  · exact h.takeAcc.fail (.inr rfl)

theorem acceptSingle (h : Inv s) {n : Nibble} (hn : n = 0x9#4 ∨ n = 0x8#4 ∨ n = 0xB#4) (ch a b : Byte) :
    Inv (acceptSingle n ch a b s) := by
  unfold Machine.acceptSingle
  split
  next hrange => exact h.load (wireMsgOk_pack_inRange hn _ hrange) (by simp [roleMessage])
  next => exact h.finish (by decide) (.inr rfl) (by simp)

theorem acceptFrame (h : Inv s) (ch : Byte) : Inv (acceptFrame ch s) := by
  unfold Machine.acceptFrame
  split
  next => exact h.load (wireMsgOk_startMarker _) fun _ hm => Option.some.inj hm
  next => exact h.finish (by decide) (.inl rfl) fun _ => .inl rfl

/-- Every framer event keeps the invariant. -/
theorem framerEvent (h : Inv s) (e : FramerEvent s t) : Inv t := by
  cases e with
  | waits => exact h
  | single _ _ _ ch a b _ _ hn => exact h.takeCmd.acceptSingle hn ch a b
  | frame _ _ ch => exact h.takeCmd.acceptFrame ch
  | illegal => exact h.takeCmd.finish (by decide) (.inr rfl) (by simp)
  | linkClosed => exact h.fail (.inl rfl)
  | issued hf => exact h.issue hf
  | counted c => exact h.takeCount c
  | unit x => exact h.takeTxt.load (wireMsgOk_dataMsg _ _) fun _ hm => Option.some.inj hm
  | textEnd => exact h.takeTxt.load (wireMsgOk_endMarker _) fun _ hm => Option.some.inj hm
  | drained => exact h.takeTxt
  | drainEnd => exact h.takeTxt.setFsm_quiet (.inr (.inr rfl))
  | responded => exact h.respond

/-- The reset event clears the registers and marks the traces (R160). -/
theorem resetEvent (h : Inv s) : Inv (resetEvent s) where
  status_code := by simp [statusOk]
  msg_packed := by simp [msgLive]
  msg_role := by simp [msgLive]
  msg_in_flight := by simp
  drain_failed := by simp
  wire_format := fun m hm => h.wire_format m (by simpa using hm)
  resp_codes := fun c hc => h.resp_codes c (by simpa using hc)

/-- A move of another agent keeps the invariant. -/
theorem applyMove (h : Inv s) (m : Move) : Inv (applyMove m s) := by
  by_cases hm : m = .assertReset
  · subst hm; exact h.resetEvent
  · exact h.of_registers_eq (applyMove_registers hm s)

end Inv

/-! ## The statements -/

/-- Settles O41: a framer event keeps the invariant, and so does a move of another agent. -/
theorem everyStepKeepsTheInvariant : Obligations.EveryStepKeepsTheInvariant := by
  intro s t h hstep
  rcases step_cases hstep with ⟨-, -, e⟩ | ⟨-, rfl⟩
  · exact h.popMove.framerEvent e
  · exact h.popMove.applyMove _

/-- Settles O40: no message is due, the codes are 0 and the traces are empty. -/
theorem resetMeetsTheInvariant : Obligations.ResetMeetsTheInvariant where
  status_code := by decide
  msg_packed := by decide
  msg_role := by simp [msgLive, State.reset]
  msg_in_flight := by decide
  drain_failed := by decide
  wire_format := by simp [State.reset]
  resp_codes := by simp [State.reset]

/-- The port carries a wire message in ISSUE alone, and it is the one in `MSG` (R106). -/
theorem portWord_eq_msg {s : State} {m : WireMsg} (h : portWord s = some (.msg m)) : s.fsm = .issue ∧ s.msg = m := by
  cases hf : s.fsm with
  | issue =>
    simp only [portWord, hf, Option.ite_none_right_eq_some, Option.some.injEq, PortWord.msg.injEq] at h
    exact ⟨rfl, h.2⟩
  | idle | wait | getu | drain | resp => simp [portWord, hf] at h

/-- A framer that meets the invariant has a step: `MSG` is a wire message wherever it is put (R25, R140). -/
theorem framerStep_next {s : State} (h : Inv s) : ∃ t, framerStep s = .next t := by
  unfold framerStep
  cases hp : portWord s with
  | none => exact ⟨_, rfl⟩
  | some p =>
    have decodes : ∃ i, decode p = .ok i := by
      cases p with
      | cmd w => exact ⟨_, rfl⟩
      | txt x => exact ⟨_, rfl⟩
      | msg m =>
        obtain ⟨hf, rfl⟩ := portWord_eq_msg hp
        exact decodeWire_of_wireMsgOk (h.msg_packed (by simp [msgLive, hf]))
    obtain ⟨i, hi⟩ := decodes
    simpa only [hi] using exec_next i s

/-- Settles O42: the framer's step always answers, and no other agent's move stops. -/
theorem aStartedFramerNeverStops : Obligations.AStartedFramerNeverStops := by
  intro s h hstarted
  by_cases hm : nextMove s = .framer
  · obtain ⟨t, ht⟩ := framerStep_next h.popMove
    exact ⟨t, (step_framer hstarted hm).trans ht, (framerStep_cases ht).started_linkOpen.1.trans hstarted⟩
  · refine ⟨_, step_of_nextMove_ne_framer hm, ?_⟩
    cases nextMove s with
    | assertReset => rfl
    | _ => exact hstarted

/-- A message stands on its channel (R67, R94). -/
theorem wireChannel_pack (n : Nibble) (ch : Channel) (a b : Data7) :
    wireChannel (pack n ch (a.setWidth 8) (b.setWidth 8)) = ch := by
  rw [pack_setWidth, wireChannel_wireWord]

/-- The message a frame's role calls for stands on the frame's channel (R130). -/
theorem wireChannel_roleMessage {s : State} (h : s.role ≠ .single) :
    ∃ m, roleMessage s = some m ∧ wireChannel m = s.ch := by
  unfold roleMessage
  cases hr : s.role with
  | single => exact absurd hr h
  | start => exact ⟨_, rfl, wireChannel_pack _ s.ch 0 0⟩
  | dlo => exact ⟨_, rfl, wireChannel_pack _ s.ch _ _⟩
  | dhi => exact ⟨_, rfl, wireChannel_pack _ s.ch _ _⟩
  | endMark => exact ⟨_, rfl, wireChannel_pack _ s.ch 0 0⟩

/-- Settles O44: no framer event outside IDLE writes `CH`, and the message put is the one its role calls for. -/
theorem oneChannelPerFrame : Obligations.OneChannelPerFrame := by
  intro s t h hstep hbusy hreset
  rcases step_cases hstep with ⟨-, -, e⟩ | ⟨-, rfl⟩
  · refine ⟨e.ch_eq hbusy, fun m hput hrole => ?_⟩
    rcases e.wire_cases with hw | ⟨hf, -, rfl⟩
    · simp [hput] at hw
    · obtain rfl : s.msg = m := by simpa [issue] using hput
      obtain ⟨m, hcalls, hch⟩ := wireChannel_roleMessage hrole
      have hlive : msgLive s = true := by simpa [msgLive] using .inl hf
      rw [h.msg_role hlive m hcalls]
      exact hch
  · obtain ⟨-, -, hch, -, -, -, hw, -⟩ := applyMove_registers hreset (popMove s)
    exact ⟨hch, fun m hput => by simp [hw] at hput⟩

end Sys2Proof.Machine
end

section
/-! PROOFS. The meanings of the opcode table's rows as whole next states: the acceptance of a command word, the text items
and the wire messages, each where it moves and where it waits (spec/41_channel.md R100 to R109, spec/42_transport.md R120
to R126). -/
namespace Sys2Proof.Machine

/-! ## Command words -/

/-- The range check passes where every field is within its bound (R95). -/
theorem rangeOk_of_le {ch a b : Byte} (hch : ch ≤ 15) (ha : a ≤ 127) (hb : b ≤ 127) : rangeOk ch a b = true := by
  rw [rangeOk_iff]
  bv_omega

/-- A FRAME command in range stores its channel and makes the start marker due (R95, R120). -/
theorem acceptFrame_inRange {ch : Byte} (h : ch ≤ 15) (s : State) :
    acceptFrame ch s = { s with ch := ch.extractLsb 3 0, msg := startMarker (ch.extractLsb 3 0), role := .start,
                                fsm := .issue } := by
  have channel : ch.setWidth 4 = ch.extractLsb 3 0 := BitVec.setWidth_eq_extractLsb' (by decide)
  rw [acceptFrame, if_pos (rangeOk_of_le h (by decide) (by decide)), channel]
  rfl

/-- In IDLE a FRAME command is accepted (R120). -/
theorem exec_frame_idle {s : State} (h : s.fsm = .idle) (ch : Byte) :
    exec (.frame ch) s = .next (acceptFrame ch (takeCmd s)) :=
  congrArg Host.Outcome.next (onCmd_idle h _)

/-- Settles O21, by the acceptance of a single command in range. -/
theorem messageCommandsLoadTheirMessage : Obligations.MessageCommandsLoadTheirMessage := by
  intro ch a b s hidle hch ha hb
  have accepted (n : Nibble) : onCmd (acceptSingle n ch a b) s = { s with
      cmdOffer := s.cmdOffer.tail, msg := n ++ ch.extractLsb 3 0 ++ a ++ b, role := .single, fsm := .issue } := by
    rw [onCmd_idle hidle, acceptSingle_inRange (rangeOk_of_le hch ha hb)]
    rfl
  have loaded (n : Nibble) := congrArg (Host.Outcome.next (φ := Fault) (ρ := Refusal)) (accepted n)
  exact ⟨loaded _, loaded _, loaded _, loaded _, loaded _, loaded _⟩

/-- Settles O22, by the acceptance of a single command out of range. -/
theorem messageCommandsRejectOutOfRange : Obligations.MessageCommandsRejectOutOfRange := by
  intro ch a b s hidle hrange
  have accepted (n : Nibble) : onCmd (acceptSingle n ch a b) s = { s with
      cmdOffer := s.cmdOffer.tail, status := 1, fsm := .resp } := by
    rw [onCmd_idle hidle, acceptSingle_outOfRange ((rangeOk_eq_false_iff ch a b).mpr hrange)]
    rfl
  have rejected (n : Nibble) := congrArg (Host.Outcome.next (φ := Fault) (ρ := Refusal)) (accepted n)
  exact ⟨rejected _, rejected _, rejected _, rejected _, rejected _, rejected _⟩

/-- Settles O23, by the acceptance of a FRAME command in range. -/
theorem frameLoadsItsStartMarker : Obligations.FrameLoadsItsStartMarker := by
  intro ch s hidle hch
  rw [exec_frame_idle hidle, acceptFrame_inRange hch]
  rfl

/-- Settles O24, by the acceptance of a FRAME command out of range. -/
theorem frameOutOfRangeDrains : Obligations.FrameOutOfRangeDrains := by
  intro ch s hidle hch
  rw [exec_frame_idle hidle, acceptFrame_outOfRange hch]
  rfl

/-- Settles O25: outside IDLE every command row leaves the state as it is. -/
theorem commandWordsWaitWhileBusy : Obligations.CommandWordsWaitWhileBusy := by
  intro s hbusy ch a b w
  have waits (f : State → State) := congrArg (Host.Outcome.next (φ := Fault) (ρ := Refusal)) (onCmd_busy hbusy f)
  exact ⟨waits _, waits _, waits _, waits _, waits _, waits _, waits _, waits _⟩

/-! ## Text items -/

/-- A text item waits outside GETU and DRAIN (R42). -/
theorem onTxt_waits {s : State} (hgetu : s.fsm ≠ .getu) (hdrain : s.fsm ≠ .drain) (inFrame inDrain : State → State) :
    onTxt inFrame inDrain s = s := by
  unfold onTxt
  split
  next h => exact absurd h hgetu
  next h => exact absurd h hdrain
  all_goals rfl

/-- Settles O27, by the two text items in DRAIN. -/
theorem textItemsWhileDraining : Obligations.TextItemsWhileDraining :=
  fun _ hdrain => ⟨fun _ => congrArg Host.Outcome.next (onTxt_drain hdrain _ _),
    fun _ => congrArg Host.Outcome.next (onTxt_drain hdrain _ _)⟩

/-- Settles O28: outside GETU and DRAIN neither text item moves. -/
theorem textItemsWaitOutsideAFrame : Obligations.TextItemsWaitOutsideAFrame :=
  fun _ hgetu hdrain _ _ => ⟨congrArg Host.Outcome.next (onTxt_waits hgetu hdrain _ _),
    congrArg Host.Outcome.next (onTxt_waits hgetu hdrain _ _)⟩

/-- Settles O54: the start marker is in `MSG` and the rest of the frame is owed for the text on TXT. -/
theorem acceptedFrameOwesItsMessages : Obligations.AcceptedFrameOwesItsMessages := by
  intro ch s t hidle hch h later
  rw [exec_frame_idle hidle, acceptFrame_inRange hch] at h
  cases h
  rfl

/-! ## Wire messages -/

/-- No message moves where the framer offers none or the transport takes none (R30, R109). -/
theorem onMsg_waits {s : State} (h : s.fsm ≠ .issue ∨ s.linkOpen = false ∨ s.transportReady = false) (m : WireMsg) :
    onMsg m s = s := by
  rcases h with h | h | h <;> simp [onMsg, msgValid, h]

/-- Settles O29: each wire row puts the message that is in `MSG`. -/
theorem wireMessagesArePut : Obligations.WireMessagesArePut := by
  intro ch a b s hissue hopen hready
  have put {n : Nibble} (hm : s.msg = wireWord n ch a b) :
      Host.Outcome.next (onMsg (pack n ch (a.setWidth 8) (b.setWidth 8)) s) =
        (.next (issue s) : Host.Outcome State Fault Refusal) := by
    rw [onMsg_put hissue hopen hready (hm.trans (pack_setWidth n ch a b).symm)]
  exact ⟨put, put, put⟩

/-- Settles O30: where one side is unwilling, no wire row moves its message. -/
theorem wireMessagesWaitOtherwise : Obligations.WireMessagesWaitOtherwise := by
  intro ch a b s h
  have waits (m : WireMsg) := congrArg (Host.Outcome.next (φ := Fault) (ρ := Refusal)) (onMsg_waits h m)
  exact ⟨waits _, waits _, waits _⟩

end Sys2Proof.Machine
end

section
/-! PROOFS. One step of each agent: the framer's runs the row at the ready port, another agent's changes its own offer or
level, and before the first reset there is only the latter (spec/00_scope.md R7, R8, spec/70_reset_and_hazards.md R163). -/
namespace Sys2Proof.Machine

/-- Settles O31, by the framer's step at each port. -/
theorem stepRunsTheDecodedInstruction : Obligations.StepRunsTheDecodedInstruction := by
  intro s hstarted hmove
  have own : step s = framerStep (popMove s) := step_framer hstarted hmove
  exact ⟨fun w rest hf hq => own.trans (framerStep_idle (s := popMove s) hf hq),
    fun t rest hf hq => own.trans (framerStep_text (s := popMove s) hf hq),
    fun i hf hl ht hd => own.trans (framerStep_issue (s := popMove s) hf hl ht hd)⟩

/-- The first move of a schedule, where it is another agent's, is made and leaves the schedule. -/
theorem step_of_schedule_eq {s : State} {m : Move} {rest : List Move} (h : s.schedule = m :: rest) (hm : m ≠ .framer) :
    step s = .next (applyMove m { s with schedule := rest }) := by
  have hnext : nextMove s = m := nextMove_of_schedule_eq h
  rw [step_of_nextMove_ne_framer (hnext ▸ hm), hnext, popMove, h, List.tail_cons]

/-- Settles O39, by the step that makes the first move of the schedule. -/
theorem otherAgentsOnlyOffer : Obligations.OtherAgentsOnlyOffer := by
  intro s rest
  exact ⟨fun _ h => step_of_schedule_eq h (by simp), fun _ h => step_of_schedule_eq h (by simp),
    fun _ h => step_of_schedule_eq h (by simp), fun _ h => step_of_schedule_eq h (by simp),
    fun _ h => step_of_schedule_eq h (by simp), fun _ h => step_of_schedule_eq h (by simp)⟩

/-- Settles O20: a framer that has not started is refused its step, and only the reset event writes `started`. -/
theorem nothingRunsBeforeTheFirstReset : Obligations.NothingRunsBeforeTheFirstReset := by
  refine ⟨fun s hstarted hmove => ?_, fun s t hstep hstarted hmove => ?_, rfl⟩
  · simp only [step, hmove, hstarted, Bool.false_eq_true, if_false]
  · rcases step_cases hstep with ⟨-, hs, -⟩ | ⟨-, rfl⟩
    · rw [hstarted] at hs; cases hs
    · obtain ⟨-, -, -, -, -, -, hwire, hresp⟩ := applyMove_registers hmove (popMove s)
      exact ⟨(applyMove_started hmove (popMove s)).trans hstarted, hwire, hresp⟩

end Sys2Proof.Machine
end

section
/-! PROOFS. Which port a step uses: a count and a message on the MSG/ACC pair, a command word and a response on CMD and RSP
(spec/20_memory.md R43, R44), and the link (spec/10_state.md R28). -/
namespace Sys2Proof.Machine

/-! ## Where the shared operations lead -/

/-- The acceptance of a single command makes a message or a response due. -/
theorem acceptSingle_fsm (n : Nibble) (ch a b : Byte) (s : State) :
    (acceptSingle n ch a b s).fsm = .issue ∨ (acceptSingle n ch a b s).fsm = .resp := by
  unfold acceptSingle
  split <;> simp

/-- The acceptance of a FRAME command makes a message due or drains the text. -/
theorem acceptFrame_fsm (ch : Byte) (s : State) :
    (acceptFrame ch s).fsm = .issue ∨ (acceptFrame ch s).fsm = .drain := by
  unfold acceptFrame
  split <;> simp

/-- An abort drains the text or makes the response due. -/
theorem fail_fsm (e : RespCode) (s : State) : (fail e s).fsm = .drain ∨ (fail e s).fsm = .resp := by
  rw [fail_eq]
  cases abortsFrame s.role <;> simp

/-- The accepted-count step leads to a next message, a text item, the draining or the response. -/
theorem takeCount_fsm (c : AckCount) (s : State) :
    (takeCount c s).fsm = .issue ∨ (takeCount c s).fsm = .getu ∨ (takeCount c s).fsm = .drain ∨
      (takeCount c s).fsm = .resp := by
  by_cases hc : c = 3
  · rw [takeCount_accepted hc]
    cases s.role <;> simp [continueRole]
  · rw [takeCount_refused hc]
    exact .inr (.inr (fail_fsm _ _))

/-! ## The MSG/ACC pair (R44) -/

section
variable {s t : State}

/-- A framer event takes the count of the message in flight, puts the message that is due, or uses neither port. -/
theorem FramerEvent.msgAcc_cases (e : FramerEvent s t) :
    (s.fsm = .wait ∧ t.fsm ≠ .wait ∧ t.wire = s.wire ∧ ∃ c, s.accOffer = c :: t.accOffer) ∨
    (s.fsm = .issue ∧ t = issue s) ∨
    (t.wire = s.wire ∧ t.accOffer = s.accOffer ∧ (t.fsm = .wait ↔ s.fsm = .wait)) := by
  cases e with
  | counted c rest hf hq =>
    have leaves : (takeCount c s).fsm ≠ .wait := by rcases takeCount_fsm c s with h | h | h | h <;> simp [h]
    exact .inl ⟨hf, leaves, by simp, c, by simp [hq]⟩
  | issued hf => exact .inr (.inl ⟨hf, rfl⟩)
  | waits => exact .inr (.inr ⟨rfl, rfl, .rfl⟩)
  | single _ _ n ch a b hf =>
    rcases acceptSingle_fsm n ch a b (takeCmd s) with h | h <;> exact .inr (.inr (by simp [h, hf]))
  | frame _ _ ch hf =>
    rcases acceptFrame_fsm ch (takeCmd s) with h | h <;> exact .inr (.inr (by simp [h, hf]))
  | linkClosed hf =>
    rcases fail_fsm statusConnErr s with h | h <;> exact .inr (.inr ⟨rfl, rfl, by simp [h, hf]⟩)
  | illegal _ _ hf | unit _ _ hf | textEnd _ _ hf | drained _ _ hf | drainEnd _ _ hf | responded hf =>
    exact .inr (.inr ⟨rfl, rfl, by simp [hf, acceptIllegal, respond]⟩)

/-- A move of another agent but the reset leaves the counts alone or offers one more. -/
theorem applyMove_accOffer {m : Move} (h : m ≠ .assertReset) (s : State) :
    (applyMove m s).accOffer = s.accOffer ∨ ∃ c, (applyMove m s).accOffer = s.accOffer ++ [c] := by
  cases m with
  | assertReset => exact absurd rfl h
  | offerAcc c => exact .inr ⟨c, rfl⟩
  | _ => exact .inl rfl

/-- Settles O45, by the three ways a framer event can use the MSG/ACC pair. -/
theorem messagesAndCountsAlternate : Obligations.MessagesAndCountsAlternate := by
  intro s t hstep hreset
  rcases step_cases hstep with ⟨-, -, e⟩ | ⟨-, rfl⟩
  · rcases e.msgAcc_cases with ⟨hf, hleft, hw, c, hq⟩ | ⟨hf, rfl⟩ | ⟨hw, hq, hwait⟩
    · exact ⟨.inl hw, fun _ => .inr ⟨c, hq, hw⟩, fun h => absurd hf h, fun _ h => absurd h hleft,
        fun h => absurd hf h⟩
    · have busy : s.fsm ≠ .wait := ne_of_eq_of_ne hf (by decide)
      exact ⟨.inr ⟨hf, rfl, rfl⟩, fun h => absurd h busy, fun _ _ => ⟨hf, rfl⟩, fun h => absurd h busy,
        fun _ => .inl rfl⟩
    · exact ⟨.inl hw, fun h => .inl ⟨hwait.mpr h, hw⟩, fun h h' => absurd (hwait.mp h') h, fun _ _ => .inl hq,
        fun _ => .inl hq⟩
  · obtain ⟨hf, -, -, -, -, -, hw, -⟩ := applyMove_registers hreset (popMove s)
    have hq := applyMove_accOffer hreset (popMove s)
    exact ⟨.inl hw, fun h => .inl ⟨hf.trans h, hw⟩, fun h h' => absurd (hf.symm.trans h') h, fun _ _ => hq,
      fun _ => hq⟩

/-! ## The CMD/RSP pair (R43) -/

/-- A framer event takes a command word out of IDLE, puts the response, or uses neither port. -/
theorem FramerEvent.cmdRsp_cases (e : FramerEvent s t) :
    (s.fsm = .idle ∧ t.fsm ≠ .idle ∧ t.respTrace = s.respTrace ∧ ∃ w, s.cmdOffer = w :: t.cmdOffer) ∨
    (s.fsm = .resp ∧ t = respond s) ∨
    (t.respTrace = s.respTrace ∧ t.cmdOffer = s.cmdOffer ∧ (t.fsm = .idle ↔ s.fsm = .idle)) := by
  cases e with
  | single w rest n ch a b hf hq =>
    refine .inl ⟨hf, ?_, by simp, w, by simp [hq]⟩
    rcases acceptSingle_fsm n ch a b (takeCmd s) with h | h <;> simp [h]
  | frame w rest ch hf hq =>
    refine .inl ⟨hf, ?_, by simp, w, by simp [hq]⟩
    rcases acceptFrame_fsm ch (takeCmd s) with h | h <;> simp [h]
  | illegal w rest hf hq => exact .inl ⟨hf, by simp [acceptIllegal], rfl, w, by simp [acceptIllegal, hq]⟩
  | responded hf => exact .inr (.inl ⟨hf, rfl⟩)
  | waits => exact .inr (.inr ⟨rfl, rfl, .rfl⟩)
  | counted c _ hf =>
    rcases takeCount_fsm c s with h | h | h | h <;> exact .inr (.inr (by simp [h, hf]))
  | linkClosed hf =>
    rcases fail_fsm statusConnErr s with h | h <;> exact .inr (.inr ⟨rfl, rfl, by simp [h, hf]⟩)
  | issued hf | unit _ _ hf | textEnd _ _ hf | drained _ _ hf | drainEnd _ _ hf =>
    exact .inr (.inr ⟨rfl, rfl, by simp [hf, issue]⟩)

/-- A move of another agent but the reset leaves the command words alone or offers one more. -/
theorem applyMove_cmdOffer {m : Move} (h : m ≠ .assertReset) (s : State) :
    (applyMove m s).cmdOffer = s.cmdOffer ∨ ∃ w, (applyMove m s).cmdOffer = s.cmdOffer ++ [w] := by
  cases m with
  | assertReset => exact absurd rfl h
  | offerCmd w => exact .inr ⟨w, rfl⟩
  | _ => exact .inl rfl

/-- Settles O46, by the three ways a framer event can use the CMD/RSP pair. -/
theorem oneResponsePerCommand : Obligations.OneResponsePerCommand := by
  intro s t hstep hreset
  rcases step_cases hstep with ⟨-, -, e⟩ | ⟨-, rfl⟩
  · rcases e.cmdRsp_cases with ⟨hf, hleft, hr, w, hq⟩ | ⟨hf, rfl⟩ | ⟨hr, hq, hidle⟩
    · exact ⟨fun _ _ => ⟨w, hq⟩, fun _ h => absurd h hleft, fun h => absurd hf h, fun h => absurd hf h, fun _ => hr⟩
    · have busy : s.fsm ≠ .idle := ne_of_eq_of_ne hf (by decide)
      exact ⟨fun h => absurd h busy, fun h => absurd h busy, fun _ => .inl rfl, fun _ _ => ⟨hf, rfl⟩,
        fun h => absurd ⟨hf, rfl⟩ h⟩
    · exact ⟨fun h h' => absurd (hidle.mpr h) h', fun _ _ => .inl hq, fun _ => .inl hq,
        fun h h' => absurd (hidle.mp h') h, fun _ => hr⟩
  · obtain ⟨hf, -, -, -, -, -, -, hr⟩ := applyMove_registers hreset (popMove s)
    have hq := applyMove_cmdOffer hreset (popMove s)
    exact ⟨fun h h' => absurd (hf.trans h) h', fun _ _ => hq, fun _ => hq, fun h h' => absurd (hf.symm.trans h') h,
      fun _ => hr⟩

end

/-! ## The framer's step where it waits (R109, R167), and inside a frame (R122) -/

/-- In IDLE with no command word offered the framer waits. -/
theorem framerStep_idleWaits {s : State} (h : s.fsm = .idle) (hq : s.cmdOffer = []) : framerStep s = .next s := by
  simp only [framerStep, portWord, ownStep, h, hq, List.head?_nil, Option.map_none]

/-- In WAIT with no count offered the framer waits. -/
theorem framerStep_countWaits {s : State} (h : s.fsm = .wait) (hq : s.accOffer = []) : framerStep s = .next s := by
  simp only [framerStep, portWord, ownStep, h, hq]

/-- In GETU with no text item offered the framer waits. -/
theorem framerStep_getuWaits {s : State} (h : s.fsm = .getu) (hq : s.txtOffer = []) : framerStep s = .next s := by
  simp only [framerStep, portWord, ownStep, h, hq, List.head?_nil, Option.map_none]

/-- In GETU a code unit makes its low byte's message due (R122). -/
theorem framerStep_unit {s : State} {x : TextItem} {rest : List TextItem} (h : s.fsm = .getu)
    (hq : s.txtOffer = x :: rest) (hx : txtEnd x = false) :
    framerStep s = .next (load .dlo (lowMsg s.ch (txtUnit x)) (setUnit (txtUnit x) (takeTxt s))) := by
  rw [framerStep_text (.inl h) hq, decodeTxt, hx]
  exact exec_unitItem_getu h _

/-- In GETU END makes the end marker due (R124). -/
theorem framerStep_textEnd {s : State} {x : TextItem} {rest : List TextItem} (h : s.fsm = .getu)
    (hq : s.txtOffer = x :: rest) (hx : txtEnd x = true) :
    framerStep s = .next (load .endMark (endMarker s.ch) (takeTxt s)) := by
  rw [framerStep_text (.inl h) hq, decodeTxt, hx]
  exact exec_endItem_getu h _

/-! ## The link (R28, R148) -/

/-- `s` with the link at another level. -/
def withLink (b : Bool) (s : State) : State := { s with linkOpen := b }

theorem acceptSingle_withLink (b : Bool) (n : Nibble) (ch a d : Byte) (s : State) :
    acceptSingle n ch a d (withLink b s) = withLink b (acceptSingle n ch a d s) := by
  unfold acceptSingle
  split <;> rfl

theorem acceptFrame_withLink (b : Bool) (ch : Byte) (s : State) :
    acceptFrame ch (withLink b s) = withLink b (acceptFrame ch s) := by
  unfold acceptFrame
  split <;> rfl

/-- Every command word has its acceptance, which neither reads nor writes the link (R148). -/
theorem exec_decodeCmd_onCmd (w : CmdWord) :
    ∃ f, (∀ b u, f (withLink b u) = withLink b (f u)) ∧ ∀ s, exec (decodeCmd w) s = .next (onCmd f s) := by
  rcases decodeCmd_cases w with ⟨-, hd⟩ | ⟨-, hd⟩
  · exact ⟨acceptIllegal, fun _ _ => rfl, fun s => by rw [hd]; rfl⟩
  · by_cases hframe : ∃ ch, decodeCmd w = .frame ch
    · obtain ⟨ch, hch⟩ := hframe
      exact ⟨acceptFrame ch, fun b u => acceptFrame_withLink b ch u, fun s => by rw [hch]; rfl⟩
    · obtain ⟨n, ch, a, d, he⟩ := exec_named_notFrame hd (not_exists.mp hframe)
      exact ⟨acceptSingle n ch a d, fun b u => acceptSingle_withLink b n ch a d u, he⟩

theorem takeCount_withLink (b : Bool) (c : AckCount) (s : State) :
    takeCount c (withLink b s) = withLink b (takeCount c s) := by
  by_cases hc : c = 3
  · rw [takeCount_accepted hc, takeCount_accepted hc, show (withLink b s).role = s.role from rfl]
    cases s.role <;> rfl
  · rw [takeCount_refused hc, takeCount_refused hc]
    rfl

/-- Outside ISSUE the framer's step neither reads nor writes the link (R28, R148). -/
theorem framerStep_withLink {s : State} (h : s.fsm ≠ .issue) :
    ∃ t, ∀ b, framerStep (withLink b s) = .next (withLink b t) := by
  cases hf : s.fsm with
  | issue => exact absurd hf h
  | idle =>
    cases hq : s.cmdOffer with
    | nil => exact ⟨s, fun b => framerStep_idleWaits hf hq⟩
    | cons w rest =>
      obtain ⟨f, hlink, he⟩ := exec_decodeCmd_onCmd w
      refine ⟨f (takeCmd s), fun b => ?_⟩
      rw [framerStep_idle (s := withLink b s) hf hq, he, onCmd_idle (s := withLink b s) hf, ← hlink]
      rfl
  | wait =>
    cases hq : s.accOffer with
    | nil => exact ⟨s, fun b => framerStep_countWaits hf hq⟩
    | cons c rest =>
      refine ⟨takeCount c s, fun b => ?_⟩
      rw [framerStep_count (s := withLink b s) hf hq, takeCount_withLink]
  | getu =>
    cases hq : s.txtOffer with
    | nil => exact ⟨s, fun b => framerStep_getuWaits hf hq⟩
    | cons x rest =>
      cases hx : txtEnd x with
      | false =>
        exact ⟨load .dlo (lowMsg s.ch (txtUnit x)) (setUnit (txtUnit x) (takeTxt s)),
          fun b => framerStep_unit (s := withLink b s) hf hq hx⟩
      | true =>
        exact ⟨load .endMark (endMarker s.ch) (takeTxt s), fun b => framerStep_textEnd (s := withLink b s) hf hq hx⟩
  | drain =>
    obtain ⟨f, hupdate, hstep⟩ := framerStep_ending (.inl hf)
    exact ⟨f s, fun b => (hstep b).trans (congrArg _ (hupdate.withLink s b))⟩
  | resp =>
    obtain ⟨f, hupdate, hstep⟩ := framerStep_ending (.inr hf)
    exact ⟨f s, fun b => (hstep b).trans (congrArg _ (hupdate.withLink s b))⟩

/-- Settles O48: only the link manager's move writes the link, and the framer reads it in ISSUE alone. -/
theorem linkIsReadOnlyInIssue : Obligations.LinkIsReadOnlyInIssue := by
  refine ⟨fun s t hstep hlink => ?_, fun s t b hissue hmove hstep => ?_⟩
  · rcases step_cases hstep with ⟨-, -, e⟩ | ⟨-, rfl⟩
    · exact e.started_linkOpen.2
    · cases hm : nextMove s with
      | driveLink b => exact absurd hm (hlink b)
      | _ => rfl
  · rcases step_cases hstep with ⟨-, hstarted, -⟩ | ⟨hne, -⟩
    · obtain ⟨u, hu⟩ := framerStep_withLink (s := popMove s) hissue
      have own (b : Bool) : step (withLink b s) = .next (withLink b u) :=
        (step_framer (s := withLink b s) hstarted hmove).trans (hu b)
      obtain rfl : withLink s.linkOpen u = t := Host.Outcome.next.inj ((own s.linkOpen).symm.trans hstep)
      exact own b
    · exact absurd hmove hne

/-! ## A closed link (R105, R163) -/

/-- A reset marker is no message. -/
theorem wireMessages_append_reset (l : List WireEntry) : wireMessages (l ++ [.reset]) = wireMessages l := by
  induction l with
  | nil => rfl
  | cons e l ih => cases e <;> simp [wireMessages, ih]

/-- A closed link that no move of the schedule opens. -/
structure LinkStaysClosed (s : State) : Prop where
  closed : s.linkOpen = false
  never_opened : ∀ m ∈ s.schedule, m ≠ .driveLink true

/-- The next move does not open a link that stays closed. -/
theorem LinkStaysClosed.nextMove_ne {s : State} (h : LinkStaysClosed s) : nextMove s ≠ .driveLink true := by
  unfold nextMove
  split
  next => simp
  next m rest hs => exact h.never_opened m (by simp [hs])

/-- A move of another agent puts no message. -/
theorem wireMessages_applyMove (m : Move) (s : State) : wireMessages (applyMove m s).wire = wireMessages s.wire := by
  cases m with
  | assertReset => exact wireMessages_append_reset s.wire
  | _ => rfl

/-- A step with a link that stays closed puts no message, and the link stays closed after it. -/
theorem LinkStaysClosed.step {s t : State} (h : LinkStaysClosed s) (hstep : step s = .next t) :
    LinkStaysClosed t ∧ wireMessages t.wire = wireMessages s.wire := by
  have later : ∀ m ∈ t.schedule, m ≠ .driveLink true := fun m hm =>
    h.never_opened m (List.mem_of_mem_tail (step_schedule hstep ▸ hm))
  rcases step_cases hstep with ⟨-, -, e⟩ | ⟨-, rfl⟩
  · refine ⟨⟨e.started_linkOpen.2.trans h.closed, later⟩, ?_⟩
    rcases e.wire_cases with hw | ⟨-, hopen, -⟩
    · exact congrArg wireMessages hw
    · exact absurd (h.closed.symm.trans hopen) (by decide)
  · refine ⟨⟨?_, later⟩, wireMessages_applyMove _ _⟩
    cases hm : nextMove s with
    | driveLink b =>
      cases b with
      | true => exact absurd hm h.nextMove_ne
      | false => rfl
    | _ => exact h.closed

/-- Settles O49, by the packaged induction over runs. -/
theorem closedLinkSendsNothing : Obligations.ClosedLinkSendsNothing := by
  intro k s t hclosed hschedule hrun
  obtain ⟨ht, hw⟩ := run_keeps (P := fun u => LinkStaysClosed u ∧ wireMessages u.wire = wireMessages s.wire)
    (fun u v ⟨hu, hw⟩ hstep => (hu.step hstep).imp_right (·.trans hw)) k s t ⟨⟨hclosed, hschedule⟩, rfl⟩ hrun
  exact ⟨ht.closed, hw⟩

end Sys2Proof.Machine
end

section
/-! PROOFS. The host's operands (spec/30_encoding.md R71, R165), the text a frame carries (spec/42_transport.md R127) and the
pseudo-instructions (spec/30_encoding.md R75). -/
namespace Sys2Proof.Machine

/-! ## The host's operands -/

/-- The saturated operand is within a bound below 255 exactly when the integer is (R71, R165). -/
theorem hostOperand_le_iff {bound : Nat} (h : bound < 255) (n : Int) :
    (hostOperand n).toNat ≤ bound ↔ 0 ≤ n ∧ n ≤ bound := by
  unfold hostOperand
  split
  next hn =>
    have value : n.toNat % 256 = n.toNat := Nat.mod_eq_of_lt (by omega)
    rw [BitVec.toNat_ofNat, value]
    omega
  next hn =>
    rw [show (0xFF#8).toNat = 255 from rfl]
    omega

/-- Settles O16, by the three bounds of the range check. -/
theorem saturatedOperandsKeepTheRangeCheck : Obligations.SaturatedOperandsKeepTheRangeCheck := by
  intro c a b
  rw [rangeOk_iff, hostOperand_le_iff (by decide), hostOperand_le_iff (by decide), hostOperand_le_iff (by decide)]
  rfl

/-! ## The text of a frame -/

/-- Two data messages per code unit. -/
theorem length_flatMap_unitMessages (ch : Channel) (text : List CodeUnit) :
    (text.flatMap (unitMessages ch)).length = 2 * text.length := by
  induction text with
  | nil => rfl
  | cons u text ih =>
    simp only [List.flatMap_cons, unitMessages, List.length_append, List.length_cons, List.length_nil] at ih ⊢
    omega

/-- A data message carries its byte (R45, R67, R91). -/
theorem messageByte_dataMsg (ch : Channel) (p : Byte) : messageByte (dataMsg ch (byteFields p)) = p := by
  have number : ∀ n : BitVec 1, (n.setWidth 7).setWidth 1 = n := by decide
  rw [messageByte, dataMsg, pack_setWidth, wireA_wireWord, wireB_wireWord, byteFields, number, reassemble_split]

/-- The data messages of a text carry its bytes, in order (R92, R127). -/
theorem map_messageByte_unitMessages (ch : Channel) (text : List CodeUnit) :
    (text.flatMap (unitMessages ch)).map messageByte = textToBytes text := by
  induction text with
  | nil => rfl
  | cons u text ih =>
    simp only [List.flatMap_cons, unitMessages, List.cons_append, List.nil_append, List.map_cons, ih, lowMsg, highMsg,
      lowFields, highFields, messageByte_dataMsg, textToBytes_cons]

/-- Each message of a code unit is a data message whose number is one bit (R97). -/
theorem dataMsg_of_mem_unitMessages {ch : Channel} {u : CodeUnit} {m : WireMsg} (h : m ∈ unitMessages ch u) :
    ∃ p, m = dataMsg ch (byteFields p) := by
  obtain rfl | rfl : m = lowMsg ch u ∨ m = highMsg ch u := by simpa [unitMessages] using h
  · exact ⟨_, rfl⟩
  · exact ⟨_, rfl⟩

/-- Settles O17, with the data messages of the text between the two markers. -/
theorem frameMessagesCarryTheText : Obligations.FrameMessagesCarryTheText := by
  intro ch text
  refine ⟨?_, text.flatMap (unitMessages ch), rfl, map_messageByte_unitMessages ch text, fun m hm => ?_⟩
  · simp only [frameMessages, frameTail, List.length_cons, List.length_append, length_flatMap_unitMessages,
      List.length_nil]
  · obtain ⟨u, -, hu⟩ := List.mem_flatMap.mp hm
    obtain ⟨p, rfl⟩ := dataMsg_of_mem_unitMessages hu
    exact ⟨(byteFields p).1, (byteFields p).2, rfl, byteFields_fst p⟩

/-! ## The pseudo-instructions -/

/-- The number of a byte is the byte by 128 and its value the rest (R90). -/
theorem split_toNat (p : Byte) : (split p).1.toNat = p.toNat / 128 ∧ (split p).2.toNat = p.toNat % 128 := by
  have hp := p.isLt
  simp only [split, BitVec.extractLsb'_toNat, Nat.shiftRight_eq_div_pow]
  omega

/-- A number fits an operand field up to 255 (R74). -/
theorem fitsByte_iff (n : Nat) : fitsByte n = true ↔ n ≤ 255 := by
  rw [fitsByte, decide_eq_true_iff]
  omega

/-- Settles O8: the expansions are the definitions', with the two fields of a byte as numbers. -/
theorem pseudoInstructionsExpand : Obligations.PseudoInstructionsExpand := by
  refine ⟨fun ch text => rfl, fun ch => ⟨rfl, rfl⟩, fun ch p => ?_, fun ch => ⟨rfl, rfl⟩, fun ch p => ?_⟩
  · obtain ⟨number, value⟩ := split_toNat p
    rw [asmData, number, value]
  · simp only [← fitsByte_iff]
    rfl

end Sys2Proof.Machine
end

section
/-! PROOFS. Runs that wait, and runs that do not read some registers (spec/10_state.md R36, spec/41_channel.md R113,
spec/70_reset_and_hazards.md R167). -/
namespace Sys2Proof.Machine

/-- Settles O50: the two states differ in the five registers at most. -/
theorem dataRegistersAreUnobservableFromIdle : Obligations.DataRegistersAreUnobservableFromIdle := by
  intro s role ch msg unit status k hidle
  have hrest : SameRest { s with role := role, ch := ch, msg := msg, unit := unit, status := status } s := rfl
  exact observe_run_idle hrest hidle k

/-- A step to the same state is repeated for ever. -/
theorem run_of_step_self {s : State} (h : step s = .next s) (k : Nat) : Host.Core.run core k s = .next s := by
  induction k with
  | zero => rfl
  | succ k ih => rw [run_step h, ih]

/-- Settles O37: in each of the waits the framer's step is to the same state. -/
theorem waitsHaveNoTimeout : Obligations.WaitsHaveNoTimeout := by
  intro s hstarted hschedule hwait k
  have waits : framerStep s = .next s := by
    rcases hwait with ⟨hf, hq⟩ | ⟨hf, hl, ht⟩ | ⟨hf, hq⟩ | ⟨hf | hf, hq⟩ | ⟨hf, hr⟩
    · exact framerStep_idleWaits hf hq
    · exact framerStep_issueWaits hf hl ht
    · exact framerStep_countWaits hf hq
    · exact framerStep_getuWaits hf hq
    · exact framerStep_drainWaits hf hq
    · exact framerStep_respWaits hf hr
  exact run_of_step_self ((step_idleSchedule hstarted hschedule).trans waits) k

/-- A quiet move of another agent brings its own text, and takes none. -/
theorem applyMove_quiet {m : Move} (h : quietMove m = true) (s : State) :
    (applyMove m s).cmdOffer = s.cmdOffer ∧ (applyMove m s).txtOffer = s.txtOffer ++ moveText m ∧
    (applyMove m s).accOffer = s.accOffer ++ moveCount m := by
  cases m with
  | assertReset | offerCmd => cases h
  | _ => simp [applyMove, moveText, moveCount]

/-- A quiet move is no reset. -/
theorem quietMove_ne_reset {m : Move} (h : quietMove m = true) : m ≠ .assertReset := by
  rintro rfl
  cases h

/-- With no word on CMD and a quiet move, none is there after the step. -/
theorem step_cmdOffer_nil {s t : State} (hq : s.cmdOffer = []) (hm : quietMove (nextMove s) = true)
    (h : step s = .next t) : t.cmdOffer = [] := by
  rcases step_cases h with ⟨-, -, e⟩ | ⟨-, rfl⟩
  · rcases e.cmdRsp_cases with ⟨-, -, -, w, hw⟩ | ⟨-, rfl⟩ | ⟨-, hw, -⟩
    · exact absurd (hq.symm.trans hw) (by simp)
    · exact hq
    · exact hw.trans hq
  · obtain ⟨hcmd, -, -⟩ := applyMove_quiet hm (popMove s)
    exact hcmd.trans hq

/-! ## A single command and the registers of a frame (R113) -/

/-- `s` with other contents of `CH` and `UNIT`. -/
def withFrameRegisters (ch : Channel) (unit : CodeUnit) (s : State) : State := { s with ch := ch, unit := unit }

/-- Where a single command in progress can be: a message of its own is due or in flight, its response is due, or it is
over and no other command has come. -/
def SinglePhase (s : State) : Prop :=
  s.cmdOffer = [] ∧ match s.fsm with
    | .idle => True
    | .issue => s.role = .single
    | .wait => s.role = .single
    | .getu => False
    | .drain => False
    | .resp => True

/-- In ISSUE with both sides willing, only a wire message has a step (R25, R106). -/
theorem framerStep_issue_wireMsgOk {s t : State} (hf : s.fsm = .issue) (hl : s.linkOpen = true)
    (ht : s.transportReady = true) (h : framerStep s = .next t) : wireMsgOk s.msg = true := by
  simp only [framerStep, portWord, hf, hl, ht, Bool.and_self, if_true, decode] at h
  refine (decodeWire_ok_iff s.msg).mp ?_
  split at h
  next i hi => exact ⟨i, hi⟩
  next => cases h

/-- The count of a single command's message decides its status (R107, R108). -/
theorem takeCount_single {s : State} (h : s.role = .single) (c : AckCount) :
    takeCount c s = finish (if c = 3 then statusOk else statusTransportErr) .resp (takeAcc s) := by
  by_cases hc : c = 3
  · rw [takeCount_accepted hc, if_pos hc, h, continueRole]
  · rw [takeCount_refused hc, if_neg hc, fail, takeAcc_role, h]
    rfl

/-- A single command's framer step is the same update whatever `CH` and `UNIT` hold, and keeps them (R113). -/
theorem SinglePhase.framerStep {s : State} (hp : SinglePhase s)
    (hmsg : s.fsm = .issue → s.linkOpen = true → s.transportReady = true → wireMsgOk s.msg = true) :
    ∃ t, SinglePhase t ∧ ∀ ch unit,
      Machine.framerStep (withFrameRegisters ch unit s) = .next (withFrameRegisters ch unit t) := by
  have phase := hp
  obtain ⟨hq, hphase⟩ := hp
  cases hf : s.fsm with
  | idle => exact ⟨s, phase, fun _ _ => framerStep_idleWaits hf hq⟩
  | issue =>
    have hrole : s.role = .single := by simpa only [hf] using hphase
    cases hl : s.linkOpen with
    | false =>
      refine ⟨finish statusConnErr .resp s, ⟨hq, trivial⟩, fun ch unit => ?_⟩
      rw [framerStep_linkClosed (s := withFrameRegisters ch unit s) hf hl, fail,
        show (withFrameRegisters ch unit s).role = .single from hrole]
      rfl
    | true =>
      cases ht : s.transportReady with
      | false => exact ⟨s, phase, fun ch unit => framerStep_issueWaits (s := withFrameRegisters ch unit s) hf hl ht⟩
      | true =>
        refine ⟨issue s, ⟨hq, hrole⟩, fun ch unit => ?_⟩
        exact framerStep_issue_wireMsg (s := withFrameRegisters ch unit s) hf hl ht (hmsg hf hl ht)
  | wait =>
    have hrole : s.role = .single := by simpa only [hf] using hphase
    cases hacc : s.accOffer with
    | nil => exact ⟨s, phase, fun ch unit => framerStep_countWaits (s := withFrameRegisters ch unit s) hf hacc⟩
    | cons c rest =>
      refine ⟨takeCount c s, ?_, fun ch unit => ?_⟩
      · rw [takeCount_single hrole]
        exact ⟨hq, trivial⟩
      · rw [framerStep_count (s := withFrameRegisters ch unit s) hf hacc, takeCount_single hrole,
          takeCount_single (s := withFrameRegisters ch unit s) hrole]
        rfl
  | getu | drain => simp only [hf] at hphase
  | resp =>
    cases hr : s.hostReady with
    | false => exact ⟨s, phase, fun ch unit => framerStep_respWaits (s := withFrameRegisters ch unit s) hf hr⟩
    | true =>
      exact ⟨respond s, ⟨hq, trivial⟩, fun ch unit => framerStep_respond (s := withFrameRegisters ch unit s) hf hr⟩

/-- A quiet move of another agent keeps the phase, and does the same whatever `CH` and `UNIT` hold. -/
theorem SinglePhase.applyMove {s : State} {m : Move} (hp : SinglePhase s) (hm : quietMove m = true) :
    SinglePhase (applyMove m s) ∧ ∀ ch unit,
      Machine.applyMove m (withFrameRegisters ch unit s) = withFrameRegisters ch unit (Machine.applyMove m s) := by
  cases m with
  | assertReset | offerCmd => cases hm
  | _ => exact ⟨hp, fun _ _ => rfl⟩

/-- A step with a quiet move keeps a single command's phase, and does the same whatever `CH` and `UNIT` hold (R113). -/
theorem SinglePhase.step {s t : State} (hp : SinglePhase s) (hm : quietMove (nextMove s) = true)
    (h : step s = .next t) :
    SinglePhase t ∧ ∀ ch unit,
      Machine.step (withFrameRegisters ch unit s) = .next (withFrameRegisters ch unit t) := by
  have popped : SinglePhase (popMove s) := hp
  by_cases hmove : nextMove s = .framer
  · rcases step_cases h with ⟨-, hstarted, -⟩ | ⟨hne, -⟩
    · have own : Machine.framerStep (popMove s) = .next t := (step_framer hstarted hmove).symm.trans h
      obtain ⟨u, hu, hsame⟩ := popped.framerStep fun hf hl ht => framerStep_issue_wireMsgOk hf hl ht own
      obtain rfl : t = withFrameRegisters s.ch s.unit u := Host.Outcome.next.inj (own.symm.trans (hsame s.ch s.unit))
      exact ⟨hu, fun ch unit => (step_framer (s := withFrameRegisters ch unit s) hstarted hmove).trans (hsame ch unit)⟩
    · exact absurd hmove hne
  · obtain rfl := Host.Outcome.next.inj ((step_of_nextMove_ne_framer hmove).symm.trans h)
    obtain ⟨ht, hsame⟩ := popped.applyMove hm
    refine ⟨ht, fun ch unit => ?_⟩
    rw [step_of_nextMove_ne_framer (s := withFrameRegisters ch unit s) hmove]
    exact congrArg _ (hsame ch unit)

/-- A run over a quiet schedule from a single command's phase takes the same steps whatever `CH` and `UNIT` hold. -/
theorem SinglePhase.run (k : Nat) : ∀ {s t : State}, SinglePhase s → (∀ m ∈ s.schedule, quietMove m = true) →
    Host.Core.run core k s = .next t → ∀ ch unit,
      Host.Core.run core k (withFrameRegisters ch unit s) = .next (withFrameRegisters ch unit t) := by
  induction k with
  | zero => intro s t _ _ hrun ch unit; cases hrun; rfl
  | succ k ih =>
    intro s t hp hquiet hrun ch unit
    obtain ⟨u, hstep, hrest⟩ := run_succ hrun
    obtain ⟨hu, hsame⟩ := hp.step (quietMove_nextMove hquiet) hstep
    have later : ∀ m ∈ u.schedule, quietMove m = true := fun m hm =>
      hquiet m (List.mem_of_mem_tail (step_schedule hstep ▸ hm))
    rw [run_step (hsame ch unit)]
    exact ih hu later hrest ch unit

/-- Settles O51: the two runs take the same steps, and the run with the contents of `s` itself is that of `s`. -/
theorem singleCommandsIgnoreChannelAndUnit : Obligations.SingleCommandsIgnoreChannelAndUnit := by
  intro k s t ch unit hq hquiet hf hrole hrun
  have phase : SinglePhase s := ⟨hq, by simpa only [hf] using hrole⟩
  have same := phase.run k hquiet hrun
  have kept : t = withFrameRegisters s.ch s.unit t := Host.Outcome.next.inj (hrun.symm.trans (same s.ch s.unit))
  exact ⟨by rw [kept]; rfl, by rw [kept]; rfl, same ch unit⟩

end Sys2Proof.Machine
end

section
/-! PROOFS. The assembler (spec/30_encoding.md R74): the words it writes, the operands it reads, the mnemonics it knows and
the lines it cuts. -/
namespace Sys2Proof.Machine

/-! ## The words of the mnemonics -/

/-- The fields are written when the three operands fit (R74). -/
theorem asmFields_eq (op : BitVec 4) (kind : BitVec 2) (ch a b : Nat) :
    asmFields op kind ch a b = if ch ≤ 255 ∧ a ≤ 255 ∧ b ≤ 255 then
      some (cmdWord op kind (BitVec.ofNat 8 ch) (BitVec.ofNat 8 a) (BitVec.ofNat 8 b)) else none := by
  simp only [asmFields, Bool.and_eq_true, fitsByte_iff, and_assoc]

/-- Outside RAW the kind and the reserved bits are one zero digit (R60). -/
theorem cmdWord_kindZero (op : BitVec 4) (ch a b : Byte) :
    cmdWord op 0#2 ch a b = op ++ 0x0#4 ++ ch ++ a ++ b := by
  have digits : ∀ op : BitVec 4, (op ++ 0#2 ++ 0#2 : BitVec 8) = op ++ 0x0#4 := by decide
  exact congrArg (fun top : BitVec 8 => top ++ ch ++ a ++ b) (digits op)

/-- The word of a mnemonic outside RAW with three operands. -/
theorem asmFields_kindZero (op : BitVec 4) (ch a b : Nat) :
    asmFields op 0#2 ch a b = if ch ≤ 255 ∧ a ≤ 255 ∧ b ≤ 255 then
      some (op ++ 0x0#4 ++ BitVec.ofNat 8 ch ++ BitVec.ofNat 8 a ++ BitVec.ofNat 8 b) else none := by
  rw [asmFields_eq, cmdWord_kindZero]

theorem asmRaw_eq (kind ch a b : Nat) : asmRaw kind ch a b =
    if kind ≤ 2 ∧ ch ≤ 255 ∧ a ≤ 255 ∧ b ≤ 255 then
      some (cmdWord 0x1#4 (BitVec.ofNat 2 kind) (BitVec.ofNat 8 ch) (BitVec.ofNat 8 a) (BitVec.ofNat 8 b))
    else none := by
  rw [asmRaw, asmFields_eq, ← ite_and]

theorem asmFrame_eq (ch : Nat) : asmFrame ch =
    if ch ≤ 255 then some (0x5#4 ++ 0x0#4 ++ BitVec.ofNat 8 ch ++ 0x00#8 ++ 0x00#8) else none := by
  rw [asmFrame, asmFields_kindZero]
  simp only [Nat.zero_le, and_true]

theorem asmUnit_eq (u : Nat) : asmUnit u = if u ≤ 65535 then some (0#1 ++ BitVec.ofNat 16 u) else none := by
  simp only [asmUnit, ← Nat.lt_succ_iff]
  rfl

theorem asmWord_eq (n : Nat) : asmWord n = if n ≤ 0xFFFFFFFF then some (BitVec.ofNat 32 n) else none := by
  simp only [asmWord, ← Nat.lt_succ_iff]

/-- Every 32-bit word can be written by `.word`. -/
theorem asmWord_toNat (w : CmdWord) : asmWord w.toNat = some w := by
  rw [asmWord, if_pos w.isLt, BitVec.ofNat_toNat, BitVec.setWidth_eq]

/-! ## No mnemonic but `.word` writes an illegal word -/

/-- Whatever command word is written is a legal one. -/
def WritesLegal (o : Option CmdWord) : Prop := ∀ w, o = some w → decodeCmd w ≠ .illegal w

/-- A word of the assigned opcodes with the bits of R64's clauses clear is legal. -/
theorem decodeCmd_cmdWord_ne_illegal {op : BitVec 4} {kind : BitVec 2} (h : op = 1 ∧ kind ≠ 3 ∨
    (op = 2 ∨ op = 3 ∨ op = 4) ∧ kind = 0) (ch a b : Byte) :
    decodeCmd (cmdWord op kind ch a b) ≠ .illegal (cmdWord op kind ch a b) := by
  rw [ne_eq, decodeCmd_eq_illegal_iff, illegalWord_iff]
  rcases h with ⟨rfl, hkind⟩ | ⟨rfl | rfl | rfl, rfl⟩
  · simpa using hkind
  all_goals simp

/-- A FRAME word without data fields is legal. -/
theorem decodeCmd_frameWord_ne_illegal (ch : Byte) :
    decodeCmd (cmdWord 5 0 ch 0 0) ≠ .illegal (cmdWord 5 0 ch 0 0) := by
  rw [ne_eq, decodeCmd_eq_illegal_iff, illegalWord_iff]
  simp

theorem writesLegal_asmFields {op : BitVec 4} {kind : BitVec 2} (h : op = 1 ∧ kind ≠ 3 ∨
    (op = 2 ∨ op = 3 ∨ op = 4) ∧ kind = 0) (ch a b : Nat) : WritesLegal (asmFields op kind ch a b) := by
  intro w hw
  obtain ⟨-, hw⟩ := (Option.ite_none_right_eq_some ..).mp ((asmFields_eq op kind ch a b).symm.trans hw)
  cases hw
  exact decodeCmd_cmdWord_ne_illegal h _ _ _

theorem writesLegal_asmRaw (kind ch a b : Nat) : WritesLegal (asmRaw kind ch a b) := by
  intro w hw
  obtain ⟨hkind, hw⟩ := (Option.ite_none_right_eq_some ..).mp hw
  have selects : BitVec.ofNat 2 kind ≠ 3 := by interval_cases kind <;> decide
  exact writesLegal_asmFields (.inl ⟨rfl, selects⟩) ch a b w hw

theorem writesLegal_asmNoteOn (ch a b : Nat) : WritesLegal (asmNoteOn ch a b) :=
  writesLegal_asmFields (.inr ⟨.inl rfl, rfl⟩) ch a b

theorem writesLegal_asmNoteOff (ch a b : Nat) : WritesLegal (asmNoteOff ch a b) :=
  writesLegal_asmFields (.inr ⟨.inr (.inl rfl), rfl⟩) ch a b

theorem writesLegal_asmCc (ch a b : Nat) : WritesLegal (asmCc ch a b) :=
  writesLegal_asmFields (.inr ⟨.inr (.inr rfl), rfl⟩) ch a b

theorem writesLegal_asmFrame (ch : Nat) : WritesLegal (asmFrame ch) := by
  intro w hw
  obtain ⟨-, hw⟩ := (Option.ite_none_right_eq_some ..).mp ((asmFields_eq 5 0 ch 0 0).symm.trans hw)
  cases hw
  exact decodeCmd_frameWord_ne_illegal _

/-! ## The mnemonics (R74, R75) -/

/-- What the assembler writes for a mnemonic with these operands: the mnemonic has as many, and the word is legal unless the
mnemonic is `.word`. -/
def MnemonicWrites (mnemonic : List Char) (operands : List Nat) (p : PortWord) : Prop :=
  (mnemonic, operands.length) ∈ mnemonicArities ∧
    (mnemonic ≠ ['.', 'w', 'o', 'r', 'd'] → ∀ w, p = .cmd w → decodeCmd w ≠ .illegal w)

/-- A mnemonic that writes a legal command word. -/
theorem mnemonicWrites_cmd {mnemonic : List Char} {operands : List Nat} {p : PortWord} {o : Option CmdWord}
    (harity : (mnemonic, operands.length) ∈ mnemonicArities) (ho : WritesLegal o) (h : o.map PortWord.cmd = some p) :
    MnemonicWrites mnemonic operands p := by
  obtain ⟨v, hv, rfl⟩ := Option.map_eq_some_iff.mp h
  refine ⟨harity, fun _ w hw => ?_⟩
  cases hw
  exact ho v hv

/-- The assembler writes a word only for a mnemonic it knows with as many operands as it takes. -/
theorem mnemonicWrites_of_eq_some {mnemonic : List Char} {operands : List Nat} {p : PortWord}
    (h : asmMnemonic mnemonic operands = some p) : MnemonicWrites mnemonic operands p := by
  unfold asmMnemonic at h
  replace h := ite_eq_iff.mp h
  rcases h with ⟨rfl, h⟩ | ⟨-, h⟩
  · split at h
    · exact mnemonicWrites_cmd (by simp [mnemonicArities]) (writesLegal_asmRaw _ _ _ _) h
    · cases h
  replace h := ite_eq_iff.mp h
  rcases h with ⟨rfl, h⟩ | ⟨-, h⟩
  · split at h
    · exact mnemonicWrites_cmd (by simp [mnemonicArities]) (writesLegal_asmNoteOn _ _ _) h
    · cases h
  replace h := ite_eq_iff.mp h
  rcases h with ⟨rfl, h⟩ | ⟨-, h⟩
  · split at h
    · exact mnemonicWrites_cmd (by simp [mnemonicArities]) (writesLegal_asmNoteOff _ _ _) h
    · cases h
  replace h := ite_eq_iff.mp h
  rcases h with ⟨rfl, h⟩ | ⟨-, h⟩
  · split at h
    · exact mnemonicWrites_cmd (by simp [mnemonicArities]) (writesLegal_asmCc _ _ _) h
    · cases h
  replace h := ite_eq_iff.mp h
  rcases h with ⟨rfl, h⟩ | ⟨-, h⟩
  · split at h
    · exact mnemonicWrites_cmd (by simp [mnemonicArities]) (writesLegal_asmFrame _) h
    · cases h
  replace h := ite_eq_iff.mp h
  rcases h with ⟨rfl, h⟩ | ⟨-, h⟩
  · split at h
    · obtain ⟨x, -, rfl⟩ := Option.map_eq_some_iff.mp h
      exact ⟨by simp [mnemonicArities], by simp⟩
    · cases h
  replace h := ite_eq_iff.mp h
  rcases h with ⟨rfl, h⟩ | ⟨-, h⟩
  · split at h
    · cases h
      exact ⟨by simp [mnemonicArities], by simp⟩
    · cases h
  replace h := ite_eq_iff.mp h
  rcases h with ⟨rfl, h⟩ | ⟨-, h⟩
  · split at h
    · exact ⟨by simp [mnemonicArities], by simp⟩
    · cases h
  replace h := ite_eq_iff.mp h
  rcases h with ⟨rfl, h⟩ | ⟨-, h⟩
  · split at h
    · exact mnemonicWrites_cmd (by simp [mnemonicArities]) (writesLegal_asmNoteOn _ _ _) h
    · cases h
  replace h := ite_eq_iff.mp h
  rcases h with ⟨rfl, h⟩ | ⟨-, h⟩
  · split at h
    · exact mnemonicWrites_cmd (by simp [mnemonicArities]) (writesLegal_asmNoteOff _ _ _) h
    · cases h
  replace h := ite_eq_iff.mp h
  rcases h with ⟨rfl, h⟩ | ⟨-, h⟩
  · split at h
    · obtain ⟨-, h⟩ := (Option.ite_none_right_eq_some ..).mp h
      exact mnemonicWrites_cmd (by simp [mnemonicArities]) (writesLegal_asmCc _ _ _) h
    · cases h
  cases h

/-- A known mnemonic has one number of operands. -/
theorem mnemonicArities_functional : ∀ m ∈ mnemonicArities, ∀ m' ∈ mnemonicArities, m.1 = m'.1 → m.2 = m'.2 := by
  decide

/-! ## The operands -/

/-- A decimal number is read as its value (R74). -/
theorem operandValue_decimalDigits {ds : List Nat} (hne : ds ≠ []) (hds : ∀ d ∈ ds, d < 10) :
    operandValue (ds.map Nat.digitChar) = some (ds.foldl (fun n d => 10 * n + d) 0) := by
  have noX : ∀ d < 10, Nat.digitChar d ≠ 'x' := by decide
  have unmarked : ∀ rest, ds.map Nat.digitChar ≠ '0' :: 'x' :: rest := fun rest h => by
    have hx : 'x' ∈ ds.map Nat.digitChar := by simp [h]
    obtain ⟨d, hd, heq⟩ := List.mem_map.mp hx
    exact noX d (hds d hd) heq
  rw [operandValue_decimal (by simpa using hne) unmarked]
  exact digits_map (fun d hd => digitValue_digitChar d (by omega)) ds 0 hds

/-- A hexadecimal number after `0x` is read as its value, whichever letters it is written with (R74). -/
theorem operandValue_hexDigits {char : Nat → Char} (hchar : ∀ d < 16, digitValue (char d) = some d) {ds : List Nat}
    (hne : ds ≠ []) (hds : ∀ d ∈ ds, d < 16) :
    operandValue ('0' :: 'x' :: ds.map char) = some (ds.foldl (fun n d => 16 * n + d) 0) := by
  rw [operandValue_hex (by simpa using hne)]
  exact digits_map hchar ds 0 hds

/-- No operand is empty, a bare `0x`, or holds a space (log entry 19). -/
theorem operandValue_eq_none {cs : List Char} (h : cs = [] ∨ cs = ['0', 'x'] ∨ ' ' ∈ cs) : operandValue cs = none := by
  rcases h with rfl | rfl | h
  · rfl
  · rfl
  · unfold operandValue
    split
    · rfl
    · rfl
    · exact digits_space 16 _ 0 (by simpa using h)
    · exact digits_space 10 _ 0 h

/-! ## The lines -/

/-- Trimming empties a text of spaces alone. -/
theorem eq_space_of_trimSpaces_eq_nil {cs : List Char} (h : trimSpaces cs = []) : ∀ c ∈ cs, c = ' ' := by
  have spaces : ∀ c ∈ cs.dropWhile (· = ' '), c = ' ' := by
    simpa [trimSpaces, List.dropWhile_eq_nil_iff] using h
  intro c hc
  rw [← List.takeWhile_append_dropWhile (p := (· = ' ')) (l := cs)] at hc
  rcases List.mem_append.mp hc with hc | hc
  · simpa using List.mem_takeWhile_imp hc
  · exact spaces c hc

/-- Operands written with a comma and a space between them are cut at the commas, each with the space before it. -/
theorem cutAt_intercalate {operands : List (List Char)} (hne : operands ≠ [])
    (hcomma : ∀ f ∈ operands, ',' ∉ f) :
    cutAt ',' (' ' :: [',', ' '].intercalate operands) = operands.map (' ' :: ·) := by
  induction operands with
  | nil => exact absurd rfl hne
  | cons f rest ih =>
    have piece : ',' ∉ ' ' :: f := by simpa using hcomma f (by simp)
    cases rest with
    | nil => simpa [List.intercalate] using cutAt_self piece
    | cons g rest =>
      have cut := cutAt_append piece (' ' :: [',', ' '].intercalate (g :: rest))
      rw [ih (by simp) fun x hx => hcomma x (by simp [hx])] at cut
      simpa [List.intercalate] using cut

/-- Readers that agree on the members of a list read the same from it. -/
theorem mapM_congr {α β : Type} {f g : α → Option β} {l : List α} (h : ∀ x ∈ l, f x = g x) : l.mapM f = l.mapM g := by
  induction l with
  | nil => rfl
  | cons x l ih => rw [List.mapM_cons, List.mapM_cons, h x (by simp), ih fun y hy => h y (by simp [hy])]

/-- The operands of a line are read one by one (R74). -/
theorem operandValues_intercalate {operands : List (List Char)} (hne : operands ≠ [])
    (hops : ∀ f ∈ operands, f ≠ [] ∧ ' ' ∉ f ∧ ',' ∉ f) :
    operandValues (' ' :: [',', ' '].intercalate operands) = operands.mapM operandValue := by
  have written : trimSpaces (' ' :: [',', ' '].intercalate operands) ≠ [] := fun h => by
    obtain ⟨f, rest, rfl⟩ := List.exists_cons_of_ne_nil hne
    obtain ⟨hf, hspace, -⟩ := hops f (by simp)
    obtain ⟨c, cs, rfl⟩ := List.exists_cons_of_ne_nil hf
    have hc := eq_space_of_trimSpaces_eq_nil h c (by cases rest <;> simp [List.intercalate])
    simp [hc] at hspace
  have uncut : ∀ f ∈ operands, ',' ∉ f := fun f hf => by
    obtain ⟨-, -, hcomma⟩ := hops f hf
    exact hcomma
  have trimmed : ∀ f ∈ operands, operandValue (trimSpaces (' ' :: f)) = operandValue f := fun f hf => by
    obtain ⟨-, hspace, -⟩ := hops f hf
    rw [trimSpaces_space hspace]
  rw [operandValues, if_neg written, cutAt_intercalate hne uncut, List.mapM_map]
  exact mapM_congr trimmed

/-- The mnemonic of a line ends at its first space. -/
theorem asmLine_append {m : List Char} (h : ' ' ∉ m) (cs : List Char) :
    asmLine (m ++ ' ' :: cs) = (operandValues (' ' :: cs)).bind (asmMnemonic m) := by
  have letters : ∀ c ∈ m, decide (c ≠ ' ') = true := fun c hc => decide_eq_true fun heq => h (heq ▸ hc)
  rw [asmLine, List.takeWhile_append_of_pos letters, List.dropWhile_append_of_pos letters]
  rw [List.takeWhile_cons_of_neg (by simp), List.dropWhile_cons_of_neg (by simp), List.append_nil]
  cases operandValues (' ' :: cs) <;> rfl

/-- A line without a space is a mnemonic without operands. -/
theorem asmLine_mnemonic {m : List Char} (h : ' ' ∉ m) : asmLine m = asmMnemonic m [] := by
  have letters : ∀ c ∈ m, decide (c ≠ ' ') = true := fun c hc => decide_eq_true fun heq => h (heq ▸ hc)
  rw [asmLine, List.takeWhile_eq_self_iff.mpr letters, List.dropWhile_eq_nil_iff.mpr letters]
  rfl

/-- Settles O7: the words by their fields, the mnemonics by their arities, the operands by their digits and the lines by
their cuts. -/
theorem assemblerWritesTheTabledWords : Obligations.AssemblerWritesTheTabledWords := by
  refine ⟨asmRaw_eq, asmFields_kindZero 2, asmFields_kindZero 3, asmFields_kindZero 4, asmFrame_eq, asmUnit_eq, rfl,
    asmWord_toNat, fun kind ch a b w hw => ?_, fun kind ch a b => ⟨rfl, rfl, rfl, rfl, rfl⟩,
    fun n => ⟨rfl, ?_⟩, rfl, fun m hm operands hlen => ?_, fun m operands hm => ?_, fun m operands w hm h => ?_,
    fun ds hne hds => operandValue_decimalDigits hne hds, fun ds hne hds => ⟨?_, ?_⟩,
    fun cs h => operandValue_eq_none h, fun m operands hm hne hops => ⟨asmLine_mnemonic hm, ?_⟩⟩
  · rcases hw with hw | hw | hw | hw | hw
    · exact writesLegal_asmRaw kind ch a b w hw
    · exact writesLegal_asmNoteOn ch a b w hw
    · exact writesLegal_asmNoteOff ch a b w hw
    · exact writesLegal_asmCc ch a b w hw
    · exact writesLegal_asmFrame ch w hw
  · have number : asmMnemonic ['.', 'w', 'o', 'r', 'd'] [n] = (asmWord n).map .cmd := rfl
    rw [number, asmWord_eq]
    split <;> rfl
  · refine Option.eq_none_iff_forall_ne_some.mpr fun p hp => hlen ?_
    obtain ⟨harity, -⟩ := mnemonicWrites_of_eq_some hp
    exact mnemonicArities_functional _ harity m hm rfl
  · refine Option.eq_none_iff_forall_ne_some.mpr fun p hp => hm ?_
    obtain ⟨harity, -⟩ := mnemonicWrites_of_eq_some hp
    exact List.mem_map_of_mem harity
  · obtain ⟨-, legal⟩ := mnemonicWrites_of_eq_some h
    exact legal hm w rfl
  · exact operandValue_hexDigits digitValue_digitChar hne hds
  · exact operandValue_hexDigits digitValue_digitChar_toUpper hne hds
  · rw [asmLine_append hm, operandValues_intercalate hne hops]

end Sys2Proof.Machine
end

section
/-! PROOFS. Whole runs with willing partners (spec/41_channel.md R101 to R110, spec/42_transport.md R120 to R127) and on a
closed link (spec/60_exceptions.md R143, R145). -/
namespace Sys2Proof.Machine

/-- A run goes on from the state it has reached. -/
theorem run_add {m : Nat} (n : Nat) {s u : State} (h : Host.Core.run core m s = .next u) :
    Host.Core.run core (m + n) s = Host.Core.run core n u := by
  induction m generalizing s with
  | zero => cases h; rw [Nat.zero_add]
  | succ m ih =>
    obtain ⟨v, hstep, hrest⟩ := run_succ h
    rw [Nat.succ_add, run_step hstep, ih hrest]

/-- A run of one step. -/
theorem run_one {s t : State} (h : step s = .next t) : Host.Core.run core 1 s = .next t :=
  run_step h

/-- A started framer whose host takes its responses, with no further move to come. -/
def HostWilling (s : State) : Prop := s.started = true ∧ s.schedule = [] ∧ s.hostReady = true

/-- With no further move to come the framer's step is the machine's. -/
theorem HostWilling.step {s t : State} (h : HostWilling s) (hstep : framerStep s = .next t) : step s = .next t := by
  obtain ⟨hstarted, hschedule, -⟩ := h
  exact (step_idleSchedule hstarted hschedule).trans hstep

/-- The response is put in one step. -/
theorem HostWilling.run_respond {s : State} (h : HostWilling s) (hf : s.fsm = .resp) :
    Host.Core.run core 1 s = .next (respond s) := by
  have hready : s.hostReady = true := by obtain ⟨-, -, hready⟩ := h; exact hready
  exact run_one (h.step (framerStep_respond hf hready))

/-! ## Draining and aborting (R126, R143) -/

/-- The text stream of a text begins with the item of its first code unit. -/
theorem textStream_cons (u : CodeUnit) (text : List CodeUnit) :
    textStream (u :: text) = txtItem 0#1 u :: textStream text := rfl

/-- A draining framer discards the text, takes END and responds. -/
theorem HostWilling.run_drains {text : List CodeUnit} {items : List TextItem} {s : State} (h : HostWilling s)
    (hf : s.fsm = .drain) (hq : s.txtOffer = textStream text ++ items) :
    Host.Core.run core (text.length + 2) s = .next
      { s with txtOffer := items, respTrace := s.respTrace ++ [.status s.status], fsm := .idle } := by
  induction text generalizing s with
  | nil =>
    have hend : s.txtOffer = asmEnd :: items := hq
    rw [List.length_nil, Nat.zero_add, run_step (h.step (framerStep_drainEnd hf hend rfl))]
    have ended : HostWilling (setFsm .resp (takeTxt s)) := h
    rw [ended.run_respond rfl, respond_eq]
    have left : s.txtOffer.tail = items := by rw [hend, List.tail_cons]
    rw [← left]
    rfl
  | cons u text ih =>
    rw [textStream_cons, List.cons_append] at hq
    have unit : txtEnd (txtItem 0#1 u) = false := by simp
    have taken : HostWilling (takeTxt s) := h
    have left : (takeTxt s).txtOffer = textStream text ++ items := by rw [takeTxt_txtOffer, hq, List.tail_cons]
    rw [List.length_cons, Nat.succ_add, run_step (h.step (framerStep_drained hf hq unit)), ih taken hf left]
    rfl

/-- A frame whose message meets a closed link drains its text and responds CONN_ERR. -/
theorem HostWilling.run_aborts {text : List CodeUnit} {items : List TextItem} {s : State} (h : HostWilling s)
    (hf : s.fsm = .issue) (hl : s.linkOpen = false) (hr : s.role = .start ∨ s.role = .dlo ∨ s.role = .dhi)
    (hq : s.txtOffer = textStream text ++ items) :
    Host.Core.run core (text.length + 3) s = .next
      { s with txtOffer := items, status := 2, respTrace := s.respTrace ++ [.status 2], fsm := .idle } := by
  have failed := h.step (framerStep_linkClosed hf hl)
  rw [fail_drains hr] at failed
  have draining : HostWilling { s with status := statusConnErr, fsm := .drain } := h
  rw [run_step failed, draining.run_drains rfl hq]
  rfl

/-- Settles O57, by the abort and the draining. -/
theorem abortedFrameDrainsAndReports : Obligations.AbortedFrameDrainsAndReports := by
  intro text items s hstarted hschedule hissue hclosed hhost hrole hq
  have willing : HostWilling s := ⟨hstarted, hschedule, hhost⟩
  exact willing.run_aborts hissue hclosed hrole hq

/-! ## The first failure on a closed link (R145) -/

/-- A legal command word is a single command with the word's own fields, or a FRAME. -/
theorem exec_decodeCmd_fields {w : CmdWord} (h : NamedCommand (decodeCmd w)) :
    (∃ n, ∀ s, exec (decodeCmd w) s = .next (onCmd (acceptSingle n (cmdCh w) (cmdA w) (cmdB w)) s)) ∨
    (decodeCmd w = .frame (cmdCh w) ∧ cmdA w = 0#8 ∧ cmdB w = 0#8) := by
  have back := encode_decodeCmd w
  obtain ⟨ch, a, b, h⟩ := h
  rcases h with hd | hd | hd | hd | hd | hd | hd <;> rw [hd] at back <;> obtain rfl := PortWord.cmd.inj back
  case inr.inr.inr.inr.inr.inr => exact .inr (by simp [hd])
  all_goals exact .inl ⟨_, fun s => by rw [hd, cmdCh_cmdWord, cmdA_cmdWord, cmdB_cmdWord]; rfl⟩

/-- The command at the head of CMD is answered with `c`, and nothing is put on the wire. -/
def AnsweredUnsent (s : State) (c : RespCode) : Prop :=
  ∃ k t, Host.Core.run core k s = .next t ∧ t.fsm = .idle ∧ t.cmdOffer = s.cmdOffer.tail ∧ t.wire = s.wire ∧
    t.respTrace = s.respTrace ++ [.status c]

section
variable {s : State} {w : CmdWord} {words : List CmdWord}

/-- A single command is answered with RANGE_ERR out of range and with CONN_ERR in range. -/
theorem HostWilling.answered_single (h : HostWilling s) (hf : s.fsm = .idle) (hl : s.linkOpen = false)
    (hq : s.cmdOffer = w :: words) {n : Nibble} {ch a b : Byte}
    (hw : ∀ s, exec (decodeCmd w) s = .next (onCmd (acceptSingle n ch a b) s)) :
    AnsweredUnsent s (if rangeOk ch a b = true then statusConnErr else statusRangeErr) := by
  have accepted : framerStep s = .next (acceptSingle n ch a b (takeCmd s)) := by
    rw [framerStep_idle hf hq, hw, onCmd_idle hf]
  cases hr : rangeOk ch a b with
  | true =>
    rw [acceptSingle, if_pos hr] at accepted
    have loaded : HostWilling (load .single (pack n (ch.setWidth 4) a b) (takeCmd s)) := h
    have failed := loaded.step (framerStep_linkClosed rfl hl)
    have due : HostWilling (fail statusConnErr (load .single (pack n (ch.setWidth 4) a b) (takeCmd s))) := h
    exact ⟨3, _, (run_step (h.step accepted)).trans ((run_step failed).trans (due.run_respond rfl)), rfl, rfl, rfl, rfl⟩
  | false =>
    rw [acceptSingle_outOfRange hr] at accepted
    have due : HostWilling { takeCmd s with status := statusRangeErr, fsm := .resp } := h
    exact ⟨2, _, (run_step (h.step accepted)).trans (due.run_respond rfl), rfl, rfl, rfl, rfl⟩

/-- A FRAME with an END item to drain is answered with RANGE_ERR out of range and with CONN_ERR in range. -/
theorem HostWilling.answered_frame (h : HostWilling s) (hf : s.fsm = .idle) (hl : s.linkOpen = false)
    (hq : s.cmdOffer = w :: words) {ch : Byte} (hw : decodeCmd w = .frame ch) {items : List TextItem}
    (htxt : s.txtOffer = asmEnd :: items) :
    AnsweredUnsent s (if rangeOk ch 0#8 0#8 = true then statusConnErr else statusRangeErr) := by
  have accepted : framerStep s = .next (acceptFrame ch (takeCmd s)) := by
    rw [framerStep_idle hf hq, hw, exec_frame_idle hf]
  have noText : s.txtOffer = textStream [] ++ items := htxt
  cases hr : rangeOk ch 0#8 0#8 with
  | true =>
    rw [acceptFrame, if_pos hr] at accepted
    have loaded : HostWilling (load .start (startMarker (ch.setWidth 4)) (setCh (ch.setWidth 4) (takeCmd s))) := h
    exact ⟨4, _, (run_step (h.step accepted)).trans (loaded.run_aborts rfl hl (.inl rfl) noText), rfl, rfl, rfl, rfl⟩
  | false =>
    rw [acceptFrame, hr] at accepted
    have draining : HostWilling (finish statusRangeErr .drain (takeCmd s)) := h
    exact ⟨3, _, (run_step (h.step accepted)).trans (draining.run_drains rfl noText), rfl, rfl, rfl, rfl⟩

end

/-- Settles O59: an illegal word, a single command and a FRAME are each answered with their first failure. -/
theorem firstFailureIsReported : Obligations.FirstFailureIsReported := by
  intro w words items s hstarted hschedule hidle hclosed hhost hq htxt
  have willing : HostWilling s := ⟨hstarted, hschedule, hhost⟩
  obtain rfl : s.cmdOffer.tail = words := by rw [hq, List.tail_cons]
  rcases decodeCmd_cases w with ⟨-, hd⟩ | ⟨-, hd⟩
  · rw [if_pos hd]
    exact ⟨2, _, run_illegal hd hstarted hschedule hidle hhost hq, rfl, rfl, rfl, rfl⟩
  · rw [if_neg (hd.ne_illegal w)]
    simp only [← rangeOk_iff]
    rcases exec_decodeCmd_fields hd with ⟨n, hw⟩ | ⟨hw, ha, hb⟩
    · exact willing.answered_single hidle hclosed hq hw
    · have answered := willing.answered_frame hidle hclosed hq hw htxt
      have fields : rangeOk (cmdCh w) (cmdA w) (cmdB w) = rangeOk (cmdCh w) 0#8 0#8 := by rw [ha, hb]
      rw [← fields] at answered
      exact answered

/-! ## A message with willing partners (R106 to R108) -/

/-- A framer whose partners take everything, with no further move to come. -/
def PartnersWilling (s : State) : Prop := HostWilling s ∧ s.linkOpen = true ∧ s.transportReady = true

/-- The message that is due is put and its count taken. -/
theorem PartnersWilling.run_message {s : State} {c : AckCount} {counts : List AckCount} (h : PartnersWilling s)
    (hf : s.fsm = .issue) (hm : wireMsgOk s.msg = true) (hq : s.accOffer = c :: counts) :
    Host.Core.run core 2 s = .next (takeCount c (issue s)) := by
  obtain ⟨hhost, hopen, hready⟩ := h
  have put : HostWilling (issue s) := hhost
  rw [run_step (hhost.step (framerStep_issue_wireMsg hf hopen hready hm)),
    run_one (put.step (framerStep_count rfl hq))]

/-- A message accepted with the count 3 goes on as its role says. -/
theorem PartnersWilling.run_accepted {s : State} {counts : List AckCount} (h : PartnersWilling s)
    (hf : s.fsm = .issue) (hm : wireMsgOk s.msg = true) (hq : s.accOffer = 3 :: counts) :
    Host.Core.run core 2 s = .next (continueRole s.role (takeAcc (issue s))) := by
  rw [h.run_message hf hm hq, takeCount_accepted rfl]
  rfl

/-- A single command's message is put, its count taken and its response given. -/
theorem PartnersWilling.run_single {s : State} {c : AckCount} {counts : List AckCount} (h : PartnersWilling s)
    (hf : s.fsm = .issue) (hr : s.role = .single) (hm : wireMsgOk s.msg = true) (hq : s.accOffer = c :: counts) :
    Host.Core.run core 3 s = .next
      (respond (finish (if c = 3 then statusOk else statusTransportErr) .resp (takeAcc (issue s)))) := by
  have counted := h.run_message hf hm hq
  rw [takeCount_single (s := issue s) hr] at counted
  obtain ⟨hhost, -, -⟩ := h
  have due : HostWilling (finish (if c = 3 then statusOk else statusTransportErr) .resp (takeAcc (issue s))) := hhost
  exact (run_add 1 counted).trans (due.run_respond rfl)

/-- The six named commands of one message: the row's meaning is the acceptance with its nibble. -/
theorem exec_of_singleCommand {i : Instr} {nib : Nibble} {ch a b : Byte}
    (h : i = .rawNoteOn ch a b ∧ nib = 0x9 ∨ i = .rawNoteOff ch a b ∧ nib = 0x8 ∨
      i = .rawControlChange ch a b ∧ nib = 0xB ∨ i = .noteOn ch a b ∧ nib = 0x9 ∨
      i = .noteOff ch a b ∧ nib = 0x8 ∨ i = .cc ch a b ∧ nib = 0xB) :
    i.WellFormed ∧ (nib = 0x9#4 ∨ nib = 0x8#4 ∨ nib = 0xB#4) ∧
      ∀ s, exec i s = .next (onCmd (acceptSingle nib ch a b) s) := by
  rcases h with ⟨rfl, rfl⟩ | ⟨rfl, rfl⟩ | ⟨rfl, rfl⟩ | ⟨rfl, rfl⟩ | ⟨rfl, rfl⟩ | ⟨rfl, rfl⟩ <;>
    exact ⟨rfl, by decide, fun _ => rfl⟩

/-- Settles O58: the acceptance, the message, its count and the response. -/
theorem singleCommandRun : Obligations.SingleCommandRun := by
  intro i nib ch a b c words counts s hi hch ha hb hstarted hschedule hidle hopen hready hhost hcmd hacc
  obtain ⟨w, hw, hq⟩ := hcmd
  obtain ⟨hwf, hnib, hexec⟩ := exec_of_singleCommand hi
  have hrange := rangeOk_of_le hch ha hb
  have willing : PartnersWilling s := ⟨⟨hstarted, hschedule, hhost⟩, hopen, hready⟩
  obtain rfl : s.cmdOffer.tail = words := by rw [hq, List.tail_cons]
  obtain rfl : s.accOffer.tail = counts := by rw [hacc, List.tail_cons]
  have hd : decodeCmd w = i := Except.ok.inj ((congrArg decode hw).symm.trans (decode_encode i hwf))
  have accepted : framerStep s = .next { takeCmd s with
      msg := nib ++ ch.extractLsb 3 0 ++ a ++ b, role := .single, fsm := .issue } := by
    rw [framerStep_idle hidle hq, hd, hexec, onCmd_idle hidle, acceptSingle_inRange hrange]
  have loaded : PartnersWilling { takeCmd s with
      msg := nib ++ ch.extractLsb 3 0 ++ a ++ b, role := .single, fsm := .issue } := willing
  have hmsg : wireMsgOk (nib ++ ch.extractLsb 3 0 ++ a ++ b) = true := wireMsgOk_pack_inRange hnib _ hrange
  obtain ⟨hhost, -, -⟩ := willing
  exact ⟨_, (run_step (hhost.step accepted)).trans (loaded.run_single rfl rfl hmsg hacc), rfl, rfl, rfl, rfl, rfl, rfl⟩

/-! ## A whole frame (R127) -/

/-- Inside a frame a code unit's two messages are put and accepted. -/
theorem PartnersWilling.run_unit {s : State} {u : CodeUnit} {rest : List TextItem} {counts : List AckCount}
    (h : PartnersWilling s) (hf : s.fsm = .getu) (htxt : s.txtOffer = txtItem 0#1 u :: rest)
    (hacc : s.accOffer = 3 :: 3 :: counts) :
    Host.Core.run core 5 s = .next { s with
      unit := u, msg := highMsg s.ch u, role := .dhi, fsm := .getu, txtOffer := rest, accOffer := counts,
      wire := s.wire ++ (unitMessages s.ch u).map .msg } := by
  have taken : framerStep s = .next (load .dlo (lowMsg s.ch u) (setUnit u (takeTxt s))) := by
    rw [framerStep_unit hf htxt (by simp), txtUnit_txtItem]
  have lowDue : PartnersWilling (load .dlo (lowMsg s.ch u) (setUnit u (takeTxt s))) := h
  have low := lowDue.run_accepted rfl (wireMsgOk_dataMsg _ _) hacc
  have highDue : PartnersWilling (load .dhi (highMsg s.ch u)
      (takeAcc (issue (load .dlo (lowMsg s.ch u) (setUnit u (takeTxt s)))))) := h
  have left : (takeAcc (issue (load .dlo (lowMsg s.ch u) (setUnit u (takeTxt s))))).accOffer = 3 :: counts :=
    congrArg List.tail hacc
  have high := highDue.run_accepted rfl (wireMsgOk_dataMsg _ _) left
  obtain ⟨hhost, -, -⟩ := h
  have run := (run_step (hhost.step taken)).trans ((run_add 2 low).trans high)
  obtain rfl : s.txtOffer.tail = rest := by rw [htxt, List.tail_cons]
  obtain rfl : s.accOffer.tail.tail = counts := by rw [hacc, List.tail_cons, List.tail_cons]
  have wire : s.wire ++ (unitMessages s.ch u).map .msg =
      s.wire ++ [.msg (lowMsg s.ch u)] ++ [.msg (highMsg s.ch u)] := by
    rw [unitMessages, List.append_assoc]; rfl
  rw [wire]
  exact run

/-- A frame whose start marker was accepted puts the rest of its messages and is answered OK. -/
theorem PartnersWilling.run_frameTail (text : List CodeUnit) (items : List TextItem) (counts : List AckCount) :
    ∀ {s : State}, PartnersWilling s → s.fsm = .getu → s.txtOffer = textStream text ++ items →
      s.accOffer = List.replicate (2 * text.length + 1) 3 ++ counts →
      ∃ t, Host.Core.run core (5 * text.length + 4) s = .next t ∧ t.fsm = .idle ∧
        t.wire = s.wire ++ (frameTail s.ch text).map .msg ∧ t.respTrace = s.respTrace ++ [.status 0] ∧
        t.cmdOffer = s.cmdOffer ∧ t.txtOffer = items ∧ t.accOffer = counts ∧ t.ch = s.ch := by
  induction text with
  | nil =>
    intro s h hf htxt hacc
    have hend : s.txtOffer = asmEnd :: items := htxt
    obtain rfl : s.txtOffer.tail = items := by rw [hend, List.tail_cons]
    obtain rfl : s.accOffer.tail = counts := congrArg List.tail hacc
    have endDue : PartnersWilling (load .endMark (endMarker s.ch) (takeTxt s)) := h
    have put := endDue.run_accepted rfl (wireMsgOk_endMarker _) hacc
    obtain ⟨hhost, -, -⟩ := h
    have due : HostWilling (finish statusOk .resp (takeAcc (issue (load .endMark (endMarker s.ch) (takeTxt s))))) :=
      hhost
    have run := (run_step (hhost.step (framerStep_textEnd hf hend rfl))).trans
      ((run_add 1 put).trans (due.run_respond rfl))
    exact ⟨_, run, rfl, rfl, rfl, rfl, rfl, rfl, rfl⟩
  | cons u text ih =>
    intro s h hf htxt hacc
    have two : 2 * (u :: text).length + 1 = (2 * text.length + 1) + 1 + 1 := by rw [List.length_cons]; omega
    rw [two, List.replicate_succ, List.replicate_succ] at hacc
    have unit := h.run_unit hf htxt hacc
    obtain ⟨t, hrun, hidle, hwire, hrest⟩ := ih (s := { s with
      unit := u, msg := highMsg s.ch u, role := .dhi, fsm := .getu, txtOffer := textStream text ++ items,
      accOffer := List.replicate (2 * text.length + 1) 3 ++ counts,
      wire := s.wire ++ (unitMessages s.ch u).map .msg }) h rfl rfl rfl
    refine ⟨t, ?_, hidle, ?_, hrest⟩
    · rw [show 5 * (u :: text).length + 4 = 5 + (5 * text.length + 4) by rw [List.length_cons]; omega, run_add _ unit]
      exact hrun
    · rw [hwire]
      simp [frameTail]

/-- A frame whose start marker is due puts its messages and is answered OK. -/
theorem PartnersWilling.run_frame {s : State} {text : List CodeUnit} {items : List TextItem} {counts : List AckCount}
    (h : PartnersWilling s) (hf : s.fsm = .issue) (hr : s.role = .start) (hm : s.msg = startMarker s.ch)
    (htxt : s.txtOffer = textStream text ++ items)
    (hacc : s.accOffer = List.replicate (2 * text.length + 2) 3 ++ counts) :
    ∃ t, Host.Core.run core (5 * text.length + 6) s = .next t ∧ t.fsm = .idle ∧
      t.wire = s.wire ++ (frameMessages s.ch text).map .msg ∧ t.respTrace = s.respTrace ++ [.status 0] ∧
      t.cmdOffer = s.cmdOffer ∧ t.txtOffer = items ∧ t.accOffer = counts ∧ t.ch = s.ch := by
  have started := h.run_accepted hf (hm ▸ wireMsgOk_startMarker s.ch) hacc
  rw [hr] at started
  have inFrame : PartnersWilling (setFsm .getu (takeAcc (issue s))) := h
  obtain ⟨t, hrun, hidle, hwire, hrest⟩ := inFrame.run_frameTail text items counts rfl htxt (congrArg List.tail hacc)
  refine ⟨t, ?_, hidle, ?_, hrest⟩
  · rw [show 5 * text.length + 6 = 2 + (5 * text.length + 4) by omega, run_add _ started]
    exact hrun
  · rw [hwire, frameMessages, ← hm]
    exact List.append_assoc s.wire [.msg s.msg] _

/-- Settles O56: the acceptance, and the frame from its start marker on. -/
theorem successfulFrameRun : Obligations.SuccessfulFrameRun := by
  intro ch text words items counts s hstarted hschedule hidle hopen hready hhost hch hcmd htxt hacc
  have willing : PartnersWilling s := ⟨⟨hstarted, hschedule, hhost⟩, hopen, hready⟩
  obtain rfl : s.cmdOffer.tail = words := by rw [hcmd, List.tail_cons]
  rw [← cmdWord_kindZero] at hcmd
  have hd : decodeCmd (cmdWord 0x5#4 0#2 ch 0#8 0#8) = .frame ch := Except.ok.inj (decode_encode (.frame ch) rfl)
  have accepted : framerStep s = .next { takeCmd s with
      ch := ch.extractLsb 3 0, msg := startMarker (ch.extractLsb 3 0), role := .start, fsm := .issue } := by
    rw [framerStep_idle hidle hcmd, hd, exec_frame_idle hidle, acceptFrame_inRange hch]
  have startDue : PartnersWilling { takeCmd s with
      ch := ch.extractLsb 3 0, msg := startMarker (ch.extractLsb 3 0), role := .start, fsm := .issue } := willing
  obtain ⟨t, hrun, hrest⟩ := startDue.run_frame rfl rfl rfl htxt hacc
  obtain ⟨hhost, -, -⟩ := willing
  exact ⟨t, (run_step (hhost.step accepted)).trans hrun, hrest⟩

end Sys2Proof.Machine
end

section
/-! PROOFS. What a command in progress does over every quiet schedule: the text it consumes (spec/30_encoding.md R66,
spec/42_transport.md R126), and the messages, counts and response of its run (spec/20_memory.md R51, spec/42_transport.md
R127, R129, spec/60_exceptions.md R144). -/
namespace Sys2Proof.Machine

/-! ## The text stream (R66, R126) -/

/-- What a command in progress leaves of the text `txt` on TXT. -/
def textLeft (s : State) (txt : List TextItem) : List TextItem := if owesStream s then afterStream txt else txt

/-- A code unit belongs to the stream. -/
theorem afterStream_unit {x : TextItem} (h : txtEnd x = false) (rest : List TextItem) :
    afterStream (x :: rest) = afterStream rest := by
  rw [afterStream, h]
  rfl

/-- END is the last item of the stream. -/
theorem afterStream_end {x : TextItem} (h : txtEnd x = true) (rest : List TextItem) :
    afterStream (x :: rest) = rest := by
  rw [afterStream, h]
  rfl

/-- An abort owes the stream that the frame owed. -/
theorem owesStream_fail {s : State} (h : s.fsm = .issue ∨ s.fsm = .wait) (e : RespCode) :
    owesStream (fail e s) = owesStream s := by
  have owes : owesStream s = abortsFrame s.role := by rcases h with h | h <;> rw [owesStream, h]
  rw [owes, fail_eq, owesStream]
  cases abortsFrame s.role <;> rfl

/-- A count taken does not change what is owed. -/
theorem owesStream_takeCount {s : State} (h : s.fsm = .wait) (c : AckCount) :
    owesStream (takeCount c s) = owesStream s := by
  by_cases hc : c = 3
  · rw [takeCount_accepted hc]
    simp only [owesStream, h]
    cases s.role <;> rfl
  · rw [takeCount_refused hc]
    exact owesStream_fail (s := takeAcc s) (.inr h) _

/-- A framer event with no command offered takes no text but what the stream owes. -/
theorem FramerEvent.textLeft_eq {s t : State} (e : FramerEvent s t) (hcmd : s.cmdOffer = []) (later : List TextItem) :
    textLeft s (s.txtOffer ++ later) = textLeft t (t.txtOffer ++ later) := by
  cases e with
  | single _ _ _ _ _ _ _ hq | frame _ _ _ _ hq | illegal _ _ _ hq => cases hcmd.symm.trans hq
  | waits => rfl
  | linkClosed hf => simp only [textLeft, owesStream_fail (.inl hf)]; rfl
  | issued hf => simp only [textLeft, owesStream, hf]; rfl
  | counted c _ hf =>
    obtain ⟨-, -, -, -, -, htxt, -⟩ := takeCount_keeps c s
    simp only [textLeft, owesStream_takeCount hf, htxt]
  | unit x rest hf hq hx =>
    simp only [textLeft, owesStream, hf, hq, if_true, List.cons_append, afterStream_unit hx]
    simp [abortsFrame, hq]
  | textEnd x rest hf hq hx =>
    simp only [textLeft, owesStream, hf, hq, if_true, List.cons_append, afterStream_end hx]
    simp [abortsFrame, hq]
  | drained x rest hf hq hx =>
    simp only [textLeft, owesStream, hf, hq, if_true, List.cons_append, afterStream_unit hx]
    simp [hf, hq]
  | drainEnd x rest hf hq hx =>
    simp only [textLeft, owesStream, hf, hq, if_true, List.cons_append, afterStream_end hx]
    simp [hq]
  | responded hf => simp [textLeft, owesStream, hf, respond]

/-- A step with a quiet move takes no text but what the stream owes. -/
theorem step_textLeft_eq {s t : State} (h : step s = .next t) (hcmd : s.cmdOffer = [])
    (hm : quietMove (nextMove s) = true) (later : List TextItem) :
    textLeft s (s.txtOffer ++ moveText (nextMove s) ++ later) = textLeft t (t.txtOffer ++ later) := by
  rcases step_cases h with ⟨hmove, -, e⟩ | ⟨-, rfl⟩
  · rw [hmove, moveText, List.append_nil]
    exact e.textLeft_eq hcmd later
  · obtain ⟨-, htxt, -⟩ := applyMove_quiet hm (popMove s)
    obtain ⟨hfsm, hrole, -⟩ := applyMove_registers (quietMove_ne_reset hm) (popMove s)
    simp only [textLeft, owesStream, htxt, hfsm, hrole]
    rfl

/-- Settles O55: what is left of the text offered is the same before and after each step. -/
theorem frameConsumesOneTextStream : Obligations.FrameConsumesOneTextStream := by
  intro k s t hbusy hcmd hquiet hrun hidle
  obtain ⟨-, hleft⟩ := run_keeps_quiet
    (P := fun x _ u => u.cmdOffer = [] ∧
      ∀ later, textLeft s (s.txtOffer ++ (x ++ later)) = textLeft u (u.txtOffer ++ later))
    (fun x _ u v ⟨hu, hleft⟩ hm hv => ⟨step_cmdOffer_nil hu hm hv, fun later => by
      rw [List.append_assoc x, hleft, ← List.append_assoc u.txtOffer, step_textLeft_eq hv hu hm]⟩)
    hquiet ⟨hcmd, fun _ => rfl⟩ hrun
  have final := hleft []
  rw [List.append_nil, List.append_nil] at final
  have kept : textLeft t t.txtOffer = t.txtOffer := by simp [textLeft, owesStream, hidle]
  exact (final.trans kept).symm

/-! ## The messages still owed (R51, R127) -/

/-- What is owed depends on the registers and on the text alone. -/
theorem owed_congr {s t : State} {arrived : List TextItem} (hfsm : t.fsm = s.fsm) (hrole : t.role = s.role)
    (hch : t.ch = s.ch) (hmsg : t.msg = s.msg) (hunit : t.unit = s.unit) (htxt : t.txtOffer = s.txtOffer ++ arrived)
    (later : List TextItem) : owed (withText later t) = owed (withText (arrived ++ later) s) := by
  simp only [owed, owedAfter, withText_fsm, withText_role, withText_ch, withText_msg, withText_unit, withText_txtOffer,
    hfsm, hrole, hch, hmsg, hunit, htxt, List.append_assoc]

/-- The message that is due is the first one owed, and putting it leaves the others. -/
theorem owed_issue {s : State} (h : s.fsm = .issue) (later : List TextItem) :
    owed (withText later s) = s.msg :: owed (withText later (issue s)) := by
  simp only [owed, withText_fsm, h]
  rfl

/-- A message accepted with the count 3 leaves the messages owed after it. -/
theorem owed_continueRole {s : State} (h : s.fsm = .wait) (later : List TextItem) :
    owed (withText later s) = owed (withText later (continueRole s.role (takeAcc s))) := by
  simp only [owed, withText_fsm, h, owedAfter, withText_role]
  cases s.role <;> rfl

/-- A code unit taken inside a frame makes the first of its two messages due (R121, R122). -/
theorem owed_unit {s : State} {x : TextItem} {rest : List TextItem} (h : s.fsm = .getu) (hq : s.txtOffer = x :: rest)
    (hx : txtEnd x = false) (later : List TextItem) :
    owed (withText later s) =
      owed (withText later (load .dlo (lowMsg s.ch (txtUnit x)) (setUnit (txtUnit x) (takeTxt s)))) := by
  have units : streamUnits (x :: (rest ++ later)) = txtUnit x :: streamUnits (rest ++ later) := by
    rw [streamUnits, hx]; rfl
  simp only [owed, withText_fsm, h, withText_ch, withText_txtOffer, hq, List.cons_append, units]
  simp [owedAfter, hq, frameTail, unitMessages]

/-- END taken inside a frame makes its last message due (R124). -/
theorem owed_textEnd {s : State} {x : TextItem} {rest : List TextItem} (h : s.fsm = .getu) (hq : s.txtOffer = x :: rest)
    (hx : txtEnd x = true) (later : List TextItem) :
    owed (withText later s) = owed (withText later (load .endMark (endMarker s.ch) (takeTxt s))) := by
  have units : streamUnits (x :: (rest ++ later)) = [] := by
    rw [streamUnits, hx]; rfl
  simp only [owed, withText_fsm, h, withText_ch, withText_txtOffer, hq, List.cons_append, units]
  simp [owedAfter, frameTail]

/-! ## The progress of a command (R51, R127, R129, R144)

`s₀` is the state the run begins in, with a command in progress; `text` and `counts` have arrived since, `put` are the
messages put and `taken` the counts taken. -/

/-- A count is awaited. -/
def countsAwaited (s : State) : Nat := if s.fsm = .wait then 1 else 0

/-- The messages and the counts so far: what is put is on the wire, what is taken has left ACC, and every message has its
count but for one in flight. -/
structure Ledger (s₀ : State) (counts : List AckCount) (put : List WireMsg) (taken : List AckCount) (s : State) :
    Prop where
  no_command : s.cmdOffer = []
  wire : s.wire = s₀.wire ++ put.map .msg
  counts : s₀.accOffer ++ counts = taken ++ s.accOffer
  balance : put.length + countsAwaited s₀ = taken.length + countsAwaited s

/-- The command goes on: it still owes the rest of its messages, and every count taken was 3. -/
structure Underway (s₀ : State) (text : List TextItem) (put : List WireMsg) (taken : List AckCount) (s : State) :
    Prop where
  fsm : s.fsm = .issue ∨ s.fsm = .wait ∨ s.fsm = .getu
  due : ∀ later, owed (withText (text ++ later) s₀) = put ++ owed (withText later s)
  accepted : ∀ n ∈ taken, n = 3
  unanswered : s.respTrace = s₀.respTrace

/-- The command's outcome is `c`: OK if every message it owes is put and every count was 3, and TRANSPORT_ERR exactly if a
count, the last one, was another. -/
structure Settled (s₀ : State) (text : List TextItem) (put : List WireMsg) (taken : List AckCount) (c : RespCode) :
    Prop where
  due : ∀ later, put <+: owed (withText (text ++ later) s₀)
  accepted : ∀ n ∈ taken.dropLast, n = 3
  ok : c = 0 → (∀ later, owed (withText (text ++ later) s₀) = put) ∧ ∀ n ∈ taken, n = 3
  transport : s₀.fsm ≠ .drain → s₀.fsm ≠ .resp → (c = 3 ↔ ∃ n ∈ taken, n ≠ 3)

/-- The three stages of a command in progress. -/
inductive Stage (s₀ : State) (text : List TextItem) (put : List WireMsg) (taken : List AckCount) (s : State) : Prop where
  /-- A message is due or in flight, or a text item is awaited. -/
  | underway : Underway s₀ text put taken s → Stage s₀ text put taken s
  /-- The outcome is in `STATUS`, and the text is drained or the response is due. -/
  | ending : s.fsm = .drain ∨ s.fsm = .resp → Settled s₀ text put taken s.status → s.respTrace = s₀.respTrace →
      Stage s₀ text put taken s
  /-- The one response was given. -/
  | answered (c : RespCode) : s.fsm = .idle → Settled s₀ text put taken c →
      s.respTrace = s₀.respTrace ++ [.status c] → Stage s₀ text put taken s

/-- How far the command in progress in `s₀` has come in `s`. -/
def CommandProgress (s₀ : State) (text : List TextItem) (counts : List AckCount) (s : State) : Prop :=
  ∃ put taken, Ledger s₀ counts put taken s ∧ Stage s₀ text put taken s

section
variable {s₀ s t : State} {text arrived : List TextItem} {counts come : List AckCount} {put : List WireMsg}
  {taken : List AckCount} {c : RespCode}

/-- An outcome does not depend on text that arrives after it. -/
theorem Settled.later (h : Settled s₀ text put taken c) (arrived : List TextItem) :
    Settled s₀ (text ++ arrived) put taken c where
  due := fun later => by rw [List.append_assoc]; exact h.due _
  accepted := h.accepted
  ok := fun hc => by
    obtain ⟨hdue, htaken⟩ := h.ok hc
    exact ⟨fun later => by rw [List.append_assoc]; exact hdue _, htaken⟩
  transport := h.transport

/-- Text and counts that arrive, and whatever else keeps the registers and the traces, leave the command where it is. -/
theorem CommandProgress.of_registers_eq (h : CommandProgress s₀ text counts s) (heq : t.fsm = s.fsm ∧ t.role = s.role ∧
    t.ch = s.ch ∧ t.msg = s.msg ∧ t.unit = s.unit ∧ t.status = s.status ∧ t.wire = s.wire ∧ t.respTrace = s.respTrace)
    (hcmd : t.cmdOffer = s.cmdOffer) (htxt : t.txtOffer = s.txtOffer ++ arrived)
    (hacc : t.accOffer = s.accOffer ++ come) : CommandProgress s₀ (text ++ arrived) (counts ++ come) t := by
  obtain ⟨hfsm, hrole, hch, hmsg, hunit, hstatus, hwire, hresp⟩ := heq
  obtain ⟨put, taken, ledger, stage⟩ := h
  refine ⟨put, taken, ?_, ?_⟩
  · exact {
      no_command := hcmd.trans ledger.no_command
      wire := hwire.trans ledger.wire
      counts := by rw [hacc, ← List.append_assoc, ledger.counts, List.append_assoc]
      balance := by rw [ledger.balance, countsAwaited, countsAwaited, hfsm] }
  · cases stage with
    | underway u => exact .underway {
        fsm := hfsm ▸ u.fsm
        due := fun later => by
          rw [List.append_assoc, u.due, owed_congr hfsm hrole hch hmsg hunit htxt]
        accepted := u.accepted
        unanswered := hresp.trans u.unanswered }
    | ending hf settled hr => exact .ending (hfsm ▸ hf) (hstatus ▸ settled.later arrived) (hresp.trans hr)
    | answered c hf settled hr => exact .answered c (hfsm.trans hf) (settled.later arrived) (hresp.trans hr)

/-- A command in progress starts with nothing put and nothing taken. -/
theorem commandProgress_start (hbusy : s₀.fsm ≠ .idle) (hcmd : s₀.cmdOffer = []) : CommandProgress s₀ [] [] s₀ := by
  refine ⟨[], [], ⟨hcmd, by simp, by simp, rfl⟩, ?_⟩
  have settled (h : s₀.fsm = .drain ∨ s₀.fsm = .resp) : Stage s₀ [] [] [] s₀ := by
    have nothing (later : List TextItem) : owed (withText ([] ++ later) s₀) = [] := by
      rcases h with h | h <;> simp only [owed, withText_fsm, h]
    exact .ending h {
      due := fun _ => List.nil_prefix
      accepted := by simp
      ok := fun _ => ⟨nothing, by simp⟩
      transport := fun hd hr => by rcases h with h | h <;> contradiction } rfl
  have underway (h : s₀.fsm = .issue ∨ s₀.fsm = .wait ∨ s₀.fsm = .getu) : Stage s₀ [] [] [] s₀ :=
    .underway ⟨h, fun _ => rfl, by simp, rfl⟩
  cases hf : s₀.fsm with
  | idle => exact absurd hf hbusy
  | issue => exact underway (.inl hf)
  | wait => exact underway (.inr (.inl hf))
  | getu => exact underway (.inr (.inr hf))
  | drain => exact settled (.inl hf)
  | resp => exact settled (.inr hf)

/-- In ISSUE, WAIT and GETU a command is under way. -/
theorem Stage.of_underway (h : Stage s₀ text put taken s) (hf : s.fsm = .issue ∨ s.fsm = .wait ∨ s.fsm = .getu) :
    Underway s₀ text put taken s := by
  cases h with
  | underway u => exact u
  | ending hf' => rcases hf' with h' | h' <;> simp [h'] at hf
  | answered _ hf' => simp [hf'] at hf

/-- In DRAIN and RESP a command's outcome is settled. -/
theorem Stage.of_ending (h : Stage s₀ text put taken s) (hf : s.fsm = .drain ∨ s.fsm = .resp) :
    Settled s₀ text put taken s.status ∧ s.respTrace = s₀.respTrace := by
  cases h with
  | underway u => rcases u.fsm with h' | h' | h' <;> simp [h'] at hf
  | ending _ settled hr => exact ⟨settled, hr⟩
  | answered _ hf' => simp [hf'] at hf

/-- A step that uses neither the MSG/ACC pair nor CMD keeps the ledger. -/
theorem Ledger.keep (h : Ledger s₀ counts put taken s) (hcmd : t.cmdOffer = s.cmdOffer) (hwire : t.wire = s.wire)
    (hacc : t.accOffer = s.accOffer) (hs : s.fsm ≠ .wait) (ht : t.fsm ≠ .wait) : Ledger s₀ counts put taken t where
  no_command := hcmd.trans h.no_command
  wire := hwire.trans h.wire
  counts := hacc ▸ h.counts
  balance := by
    have balance := h.balance
    simp only [countsAwaited, if_neg hs, if_neg ht] at balance ⊢
    exact balance

/-- The issue step enters its message in the ledger. -/
theorem Ledger.issue (h : Ledger s₀ counts put taken s) (hf : s.fsm = .issue) :
    Ledger s₀ counts (put ++ [s.msg]) taken (issue s) where
  no_command := h.no_command
  wire := by rw [issue_eq, h.wire, List.map_append, List.append_assoc]; rfl
  counts := h.counts
  balance := by
    have balance := h.balance
    simp [countsAwaited, hf, Machine.issue] at balance ⊢
    omega

/-- The accepted-count step enters its count in the ledger. -/
theorem Ledger.takeCount (h : Ledger s₀ counts put taken s) (hf : s.fsm = .wait) {n : AckCount} {rest : List AckCount}
    (hq : s.accOffer = n :: rest) : Ledger s₀ counts put (taken ++ [n]) (takeCount n s) where
  no_command := by simpa using h.no_command
  wire := by simpa using h.wire
  counts := by simpa [hq] using h.counts
  balance := by
    have balance := h.balance
    have landed : (Machine.takeCount n s).fsm ≠ .wait := by rcases takeCount_fsm n s with h | h | h | h <;> simp [h]
    simp [countsAwaited, hf, landed] at balance ⊢
    omega

/-- A message accepted with the count 3 leaves the command under way, or ends it with OK and nothing owed. -/
theorem Underway.accept (h : Underway s₀ text put taken s) (hf : s.fsm = .wait) :
    Stage s₀ text put (taken ++ [3]) (continueRole s.role (takeAcc s)) := by
  have due (later : List TextItem) : owed (withText (text ++ later) s₀) =
      put ++ owed (withText later (continueRole s.role (takeAcc s))) := by rw [h.due, owed_continueRole hf]
  have accepted : ∀ n ∈ taken ++ [3], n = 3 := fun n hn => by
    rcases List.mem_append.mp hn with hn | hn
    · exact h.accepted n hn
    · simpa using hn
  have ended (hr : s.role = .single ∨ s.role = .endMark) :
      Stage s₀ text put (taken ++ [3]) (finish statusOk .resp (takeAcc s)) := by
    have paid (later : List TextItem) : owed (withText (text ++ later) s₀) = put := by
      rw [due]
      rcases hr with hr | hr <;> rw [hr] <;> exact List.append_nil put
    exact .ending (.inr rfl) {
      due := fun later => by rw [paid]
      accepted := fun n hn => accepted n (List.mem_of_mem_dropLast hn)
      ok := fun _ => ⟨paid, accepted⟩
      transport := fun _ _ => ⟨fun hc => absurd hc (by decide : statusOk ≠ 3),
        fun ⟨n, hn, hne⟩ => absurd (accepted n hn) hne⟩ }
      h.unanswered
  cases hr : s.role with
  | single => exact ended (.inl hr)
  | endMark => exact ended (.inr hr)
  | start | dhi =>
    rw [hr] at due
    exact .underway ⟨.inr (.inr rfl), due, accepted, h.unanswered⟩
  | dlo =>
    rw [hr] at due
    exact .underway ⟨.inl rfl, due, accepted, h.unanswered⟩

/-- An abort settles the outcome: CONN_ERR for a message that was not put, TRANSPORT_ERR for a count other than 3. -/
theorem Settled.of_failure (hdue : ∀ later, put <+: owed (withText (text ++ later) s₀))
    (haccepted : ∀ n ∈ taken.dropLast, n = 3)
    (hc : c = statusConnErr ∧ (∀ n ∈ taken, n = 3) ∨ c = statusTransportErr ∧ ∃ n ∈ taken, n ≠ 3) :
    Settled s₀ text put taken c where
  due := hdue
  accepted := haccepted
  ok := fun h0 => by rcases hc with ⟨rfl, -⟩ | ⟨rfl, -⟩ <;> cases h0
  transport := fun _ _ => by
    rcases hc with ⟨rfl, hall⟩ | ⟨rfl, hex⟩
    · exact ⟨fun h3 => absurd h3 (by decide), fun ⟨n, hn, hne⟩ => absurd (hall n hn) hne⟩
    · exact ⟨fun _ => hex, fun _ => rfl⟩

/-- Every framer event is progress of the command. -/
theorem CommandProgress.framerEvent (h : CommandProgress s₀ text counts s) (e : FramerEvent s t) :
    CommandProgress s₀ text counts t := by
  have same := h
  obtain ⟨put, taken, ledger, stage⟩ := h
  cases e with
  | waits => exact same
  | single _ _ _ _ _ _ _ hq | frame _ _ _ _ hq | illegal _ _ _ hq => cases ledger.no_command.symm.trans hq
  | linkClosed hf =>
    have u := stage.of_underway (.inl hf)
    have target := fail_fsm statusConnErr s
    have kept : Ledger s₀ counts put taken (fail statusConnErr s) :=
      ledger.keep rfl rfl rfl (by simp [hf]) (by rcases target with h | h <;> simp [h])
    exact ⟨put, taken, kept, .ending target (.of_failure (fun later => ⟨_, (u.due later).symm⟩)
      (fun n hn => u.accepted n (List.mem_of_mem_dropLast hn)) (.inl ⟨rfl, u.accepted⟩)) u.unanswered⟩
  | issued hf =>
    have u := stage.of_underway (.inl hf)
    exact ⟨put ++ [s.msg], taken, ledger.issue hf, .underway ⟨.inr (.inl rfl), fun later => by
      rw [u.due, owed_issue hf, List.append_assoc]; rfl, u.accepted, u.unanswered⟩⟩
  | counted n rest hf hq =>
    have u := stage.of_underway (.inr (.inl hf))
    refine ⟨put, taken ++ [n], ledger.takeCount hf hq, ?_⟩
    by_cases hn : n = 3
    · subst hn
      rw [takeCount_accepted rfl]
      exact u.accept hf
    · rw [takeCount_refused hn]
      exact .ending (fail_fsm _ _) (.of_failure (fun later => ⟨_, (u.due later).symm⟩)
        (by simpa using u.accepted) (.inr ⟨rfl, n, by simp, hn⟩)) u.unanswered
  | unit x rest hf hq hx =>
    have u := stage.of_underway (.inr (.inr hf))
    exact ⟨put, taken, ledger.keep rfl rfl rfl (by simp [hf]) (by simp), .underway ⟨.inl rfl, fun later => by
      rw [u.due, owed_unit hf hq hx], u.accepted, u.unanswered⟩⟩
  | textEnd x rest hf hq hx =>
    have u := stage.of_underway (.inr (.inr hf))
    exact ⟨put, taken, ledger.keep rfl rfl rfl (by simp [hf]) (by simp), .underway ⟨.inl rfl, fun later => by
      rw [u.due, owed_textEnd hf hq hx], u.accepted, u.unanswered⟩⟩
  | drained x rest hf =>
    obtain ⟨settled, hr⟩ := stage.of_ending (.inl hf)
    exact ⟨put, taken, ledger.keep rfl rfl rfl (by simp [hf]) (by simp [hf]), .ending (.inl hf) settled hr⟩
  | drainEnd x rest hf =>
    obtain ⟨settled, hr⟩ := stage.of_ending (.inl hf)
    exact ⟨put, taken, ledger.keep rfl rfl rfl (by simp [hf]) (by simp), .ending (.inr rfl) settled hr⟩
  | responded hf =>
    obtain ⟨settled, hr⟩ := stage.of_ending (.inr hf)
    refine ⟨put, taken, ledger.keep rfl rfl rfl (by simp [hf]) (by simp [respond]), .answered s.status rfl settled ?_⟩
    rw [respond_eq, hr]

/-- Every step with a quiet move is progress of the command. -/
theorem CommandProgress.step (h : CommandProgress s₀ text counts s) (hm : quietMove (nextMove s) = true)
    (hstep : step s = .next t) :
    CommandProgress s₀ (text ++ moveText (nextMove s)) (counts ++ moveCount (nextMove s)) t := by
  rcases step_cases hstep with ⟨hmove, -, e⟩ | ⟨-, rfl⟩
  · have popped : CommandProgress s₀ text counts (popMove s) := by
      simpa using h.of_registers_eq (t := popMove s) (arrived := []) (come := [])
        ⟨rfl, rfl, rfl, rfl, rfl, rfl, rfl, rfl⟩ rfl (by simp) (by simp)
    rw [hmove, moveText, moveCount, List.append_nil, List.append_nil]
    exact popped.framerEvent e
  · obtain ⟨hcmd, htxt, hacc⟩ := applyMove_quiet hm (popMove s)
    exact h.of_registers_eq (applyMove_registers (quietMove_ne_reset hm) (popMove s)) hcmd htxt hacc

end

/-- What is put stands at the front of what is owed for the text that has arrived. -/
theorem Stage.put_due {s₀ s : State} {text : List TextItem} {put : List WireMsg} {taken : List AckCount}
    (h : Stage s₀ text put taken s) : put <+: owed (withText text s₀) := by
  have due : put <+: owed (withText (text ++ []) s₀) := by
    cases h with
    | underway u => exact ⟨_, (u.due []).symm⟩
    | ending _ settled _ => exact settled.due []
    | answered _ _ settled _ => exact settled.due []
  rwa [List.append_nil] at due

/-- Settles O53, by the progress of the command, kept by every step of a quiet schedule and read off at the end. -/
theorem wireFollowsTheOwedMessages : Obligations.WireFollowsTheOwedMessages := by
  intro k s t hbusy hcmd hquiet hrun
  obtain ⟨put, taken, ledger, stage⟩ := run_keeps_quiet (P := CommandProgress s)
    (fun _ _ _ _ hu hm hv => hu.step hm hv) hquiet (commandProgress_start hbusy hcmd) hrun
  refine ⟨put, taken, stage.put_due, ledger.wire, ledger.counts, ledger.balance, ?_⟩
  cases stage with
  | underway u =>
    have busy : t.fsm ≠ .idle := by rcases u.fsm with h | h | h <;> simp [h]
    exact ⟨fun n hn => u.accepted n (List.mem_of_mem_dropLast hn), fun _ => u.accepted, fun _ => u.unanswered,
      fun h => absurd h busy⟩
  | ending hf settled hr =>
    have notUnderway : ¬ (t.fsm = .issue ∨ t.fsm = .wait ∨ t.fsm = .getu) := by rcases hf with h | h <;> simp [h]
    have busy : t.fsm ≠ .idle := by rcases hf with h | h <;> simp [h]
    exact ⟨settled.accepted, fun h => absurd h notUnderway, fun _ => hr, fun h => absurd h busy⟩
  | answered c hf settled hr =>
    have ok (hc : c = 0) : put = owed (withText (textWithin k s) s) ∧ ∀ n ∈ taken, n = 3 := by
      obtain ⟨hdue, hall⟩ := settled.ok hc
      exact ⟨by rw [← hdue [], List.append_nil], hall⟩
    exact ⟨settled.accepted, fun h => by simp [hf] at h, fun h => absurd hf h,
      fun _ => ⟨c, hr, ok, settled.transport⟩⟩

end Sys2Proof.Machine
end
